-- ==== Sys2Proof/Word.lean ====
section
/-! DEFINITION. The word types of the core and nothing else: one name for every width of 00_scope.md rules R7 and R8 that is
the width of a bit vector. Lean's BitVec procedures read a width from a numeral, so each type has its numeral here, once;
`Machine/Params.lean` names the widths as constants and ties each type to its constant. -/

namespace Sys2Proof

/-- `XLEN` bits (R7): a general register, a memory word, `sp` (R27), `reti` (R35), an instruction (R70). -/
abbrev Word := BitVec 32

/-- `PC_BITS` bits (R8, R24; D12): the program counter. -/
abbrev Pc := BitVec 32

/-- `ADDR_BITS` bits (R7): a masked memory address (R51), which names one word of memory. -/
abbrev Addr := BitVec 24

/-- `IMM_BITS` bits (R7): the unsigned immediate of an instruction word (R72, R74). -/
abbrev Imm := BitVec 24

/-- A general register's index: a 4-bit field, so always one of the `NREGS` registers (R21, R22). -/
abbrev Reg := BitVec 4

end Sys2Proof
end

