-- ==== Sys2Proof/Config.lean ====
section
/-! DEFINITION. What the spec leaves to an implementation, as constants with no body (nothing can be proved of their
values beyond their types), and the type of the layout record. The parameters the spec gives a value (rules R7, R8) are in
`Machine/Params.lean`; the layout's values are in `Machine/Layout.lean`. -/

namespace Sys2Proof

/-- `FILLER` (R8, R280; 92_eei_decisions.md D22): the construction content of every memory word outside the program image,
"unspecified". A free value: claims hold whatever it is (93_implementation_defined.md U3). The first argument
numbers the constructions, because a restart draws "a fresh filler" (R284, D23); it is `State.epoch`. -/
opaque Config.filler : Nat → Addr → Word

/-- `COST2` … `COST14` (R115; D19): the cycle increment of a class whose cost the spec leaves open, less one. The spec
says only that it is "in 1 to 3", so the type holds three values and nothing else is known of it. -/
opaque Config.openCost : BitVec 4 → Fin 3

/-- `INTNUM_BITS` (R8, R101; D18): the width of the step's `interrupt_number` input, "OPEN and irrelevant". -/
opaque Config.intNumBits : Nat

/-- The layout record (R8): the lowest bit of every field of an instruction word. The widths are the spec's (R72, R73). -/
structure Layout where
  opcLo : Nat
  drLo : Nat
  sr1Lo : Nat
  sr2Lo : Nat
  immLo : Nat
  fnLo : Nat
  sopLo : Nat
  jmLo : Nat
  jcLo : Nat
  sLo : Nat
  deriving DecidableEq, Repr

end Sys2Proof
end

