-- ==== Sys2Proof/Machine/Params.lean ====
section
/-! DEFINITION. The implementation parameters of 00_scope.md rules R7 and R8 that have a value, each a named constant, because
the source's numeric literals are unaudited (R7; 92_eei_decisions.md D32). The types of `Word.lean` are tied to the widths
here, so neither can be corrected without the other. -/

namespace Sys2Proof

/-- `XLEN` (R7): the width of a general register, of a memory word, of `sp`, of `reti` and of an instruction. -/
def Config.xlen : Nat := 32

/-- `NREGS` (R7): the number of general registers. -/
def Config.nregs : Nat := 16

/-- `ADDR_BITS` (R7): the width of a memory address. -/
def Config.addrBits : Nat := 24

/-- `IMM_BITS` (R7): the width of the immediate field. -/
def Config.immBits : Nat := 24

/-- `PC_BITS` (R8; D12): the width of `pc`. -/
def Config.pcBits : Nat := 32

theorem word_width : Word = BitVec Config.xlen := rfl
theorem pc_width : Pc = BitVec Config.pcBits := rfl
theorem addr_width : Addr = BitVec Config.addrBits := rfl
theorem imm_width : Imm = BitVec Config.immBits := rfl

/-- No register index is out of range (R22). -/
theorem Config.reg_lt (i : Reg) : i.toNat < Config.nregs := i.isLt

/-- `MEM_WORDS` (R7): the number of words of memory, the "memory length" of the step contract. -/
def Config.memWords : Nat := 16777216

/-- `ADDR_MASK` (R7): the mask applied to every data address (R51). -/
def Config.addrMask : Word := 0xFFFFFF

/-- `VECTOR_ADDR` (R7): the system-call vector cell. -/
def Config.vectorAddr : Word := 0x40

/-- `ARG_ADDR` (R7): the system-call argument cell. -/
def Config.argAddr : Word := 0x41

/-- `FETCH_COST` (R7, R115): the cycles every executed step adds before its class increment. -/
def Config.fetchCost : Nat := 2

/-- The mask of a shift or rotate amount (R158): the low five bits of `x[sr2]`. -/
def Config.shiftMask : Word := 31

/-- The place of `carry` in a flags word (R12). -/
def Config.carryBit : Nat := 0

/-- The place of `zero` in a flags word (R12). -/
def Config.zeroBit : Nat := 1

/-- The place of `comparison` in a flags word (R12). -/
def Config.comparisonBit : Nat := 2

end Sys2Proof
end

