-- ==== Sys2Proof/Machine/State.lean ====
section
/-! DEFINITION. The state of the core, as plain data (10_state.md rule R20), why a step can stop, and the state after
construction. -/

namespace Sys2Proof.Machine

/-- The statuses of a step (R102, R250). -/
inductive Status where
  /-- The instruction executed (R102). -/
  | ok
  /-- A HALT executed (R252); not an error. -/
  | halt
  /-- `pc` was at or beyond the memory length; nothing executed (R251). -/
  | pcOutOfBounds
  /-- A malformed word; no word produces it (R253). -/
  | invalidOpcode
  deriving DecidableEq, Repr

/-- The per-step decode scratch: the raw word of the latest fetch and its generic fields (R37, R107). -/
structure Scratch where
  word : Word
  opc : BitVec 4
  dr : Reg
  sr1 : Reg
  sr2 : Reg
  deriving DecidableEq, Repr

/-- One word of memory at its address. The core's smallest addressable unit is the 32-bit word and it has no byte order
(R50, R55), so a cell holds a word: DEDUCED, log 1. -/
abbrev Cell := Nat × Word

/-- The words written since construction and the words of the image, by strictly rising address (`Memory.wf`). An address
that is not listed holds its construction content (`State.peek`, log 2). -/
abbrev Memory := List Cell

/-- The whole state: the record of R20, the image that a restart loads again (R284, log 9), and the model's own `status`
(log 4) and `epoch` (log 3). -/
structure State where
  /-- `x[0..15]` (R21). -/
  regs : Vector Word Config.nregs
  /-- The program counter: a word index of `PC_BITS` bits, not masked (R24). -/
  pc : Pc
  /-- The stack pointer, masked when used (R27). -/
  sp : Word
  /-- `C` (R29, R31). -/
  carry : Bool
  /-- `Z` (R29, R30). -/
  zero : Bool
  /-- `CMP` (R29, R32). -/
  comparison : Bool
  /-- `PRIV` (R34). -/
  priv : Bool
  /-- `reti`, the pc to resume at after a system call (R35). -/
  reti : Word
  /-- `Mem` (R50). -/
  mem : Memory
  /-- The most recent access: its masked address and its value (R53). -/
  lastAccess : Option (Addr × Word)
  /-- The decode scratch (R37). -/
  scratch : Scratch
  /-- The cycle counter (R36). -/
  cycles : Nat
  /-- The status the latest step returned (R102). DESIGN CHOICE, log 4: the model's own field. -/
  status : Status
  /-- The program image of the construction (R280, R281), kept for a restart (R284). -/
  image : List Word
  /-- How many restarts there have been; it numbers the fillers (R284). DESIGN CHOICE, log 3: the model's own field. -/
  epoch : Nat
  deriving DecidableEq, Repr

/-- Why the machine stops. -/
inductive Fault where
  /-- Raised by `step` when `pc >= 2^24` (R103, R251): the spec's status `PcOutOfBounds`, "stuck" (U14). Safe: the
  spec's step changes nothing and returns the same status for ever (log 5). -/
  | pcOutOfBounds
  /-- Raised by `step` when the decoder rejects the fetched word (R253). No word is rejected (R85), so no step raises
  it. Safe (log 6). -/
  | invalidOpcode (word : Word)
  deriving DecidableEq, Repr

/-- What the model has no meaning for. -/
inductive Refusal where
  /-- Raised by `exec` for an instruction without a meaning yet. Safe. No arm raises it. -/
  | notModelled (mnemonic : String)
  /-- Raised by the host operation `construct` for an image of 2^24 words or more, which R281 rules out. Safe (log 13).
  No step raises it. -/
  | imageTooLong
  deriving DecidableEq, Repr

/-- The state right after the core comes up, before any program is loaded: construction with an empty image (R39, R280;
log 8). The spec's reset operation (R282) is `hostReset` and leaves this state as it is. -/
def State.reset : State where
  regs := Vector.replicate Config.nregs 0
  pc := 0
  sp := 0
  carry := false
  zero := false
  comparison := false
  priv := false
  reti := 0
  mem := []
  lastAccess := none
  scratch := { word := 0, opc := 0, dr := 0, sr1 := 0, sr2 := 0 }
  cycles := 0
  status := .ok
  image := []
  epoch := 0

end Sys2Proof.Machine
end

