-- ==== Sys2Proof/Machine/Flags.lean ====
section
/-! DEFINITION. Every flag computation of the spec: the flags word (R12), carry (R141), zero (R140), the relational tests
of class 2 (R170 to R176) and the conditions of class 3 (R81). -/

namespace Sys2Proof.Machine

/-- `b2i` (R10) as a 32-bit value. -/
def b2i (b : Bool) : Word := if b then 1 else 0

/-- `flagsword()` (R12): carry, zero and comparison packed, bits 31 to 3 zero. -/
def flagsWord (s : State) : Word :=
  (b2i s.carry <<< Config.carryBit) ||| (b2i s.zero <<< Config.zeroBit) ||| (b2i s.comparison <<< Config.comparisonBit)

/-- `unpackflags(w)` (R12): the three flags from bits 0, 1 and 2 of `w`, the rest of `w` ignored (D16, log 19). -/
def unpackFlags (w : Word) (s : State) : State :=
  { s with
    carry := w.getLsbD Config.carryBit
    zero := w.getLsbD Config.zeroBit
    comparison := w.getLsbD Config.comparisonBit }

/-- The carry of ADD (R141): "the logical OR of 'result < operand1' and 'result < operand2'", unsigned (D5). -/
def addCarry (a b r : Word) : Bool := decide (r.toNat < a.toNat) || decide (r.toNat < b.toNat)

/-- The zero flag of a result (R140). -/
def isZero (r : Word) : Bool := r == 0

/-- `a > b`, unsigned (R171; D5, log 19). -/
def relGt (a b : Word) : Bool := decide (b.toNat < a.toNat)

/-- `a == b` (R172). -/
def relEq (a b : Word) : Bool := a == b

/-- `a < b`, unsigned (R173; D5). -/
def relLt (a b : Word) : Bool := decide (a.toNat < b.toNat)

/-- `a >= b`, unsigned (R174; D5). -/
def relGe (a b : Word) : Bool := decide (b.toNat ≤ a.toNat)

/-- `a <= b`, unsigned (R175; D5). -/
def relLe (a b : Word) : Bool := decide (a.toNat ≤ b.toNat)

/-- No valid test: false whatever the operands (R176). -/
def relNever (_ _ : Word) : Bool := false

/-- The condition of jump slot 0 (R81). -/
def condAlways (_ : State) : Bool := true

/-- The condition of jump slot 1, `C` (R81). -/
def condCarry (s : State) : Bool := s.carry

/-- The condition of jump slot 2, not `C` (R81). -/
def condNotCarry (s : State) : Bool := !s.carry

/-- The condition of jump slot 3, `CMP` (R81). -/
def condComparison (s : State) : Bool := s.comparison

/-- The condition of jump slot 4, not `CMP` (R81). -/
def condNotComparison (s : State) : Bool := !s.comparison

/-- The condition of jump slot 5, `Z` (R81). -/
def condZero (s : State) : Bool := s.zero

/-- The condition of jump slot 6, not `Z` (R81). -/
def condNotZero (s : State) : Bool := !s.zero

/-- The condition of jump slot 7, the "unconditional(duplicate slot)" (R81; U8). -/
def condAlwaysDuplicate (_ : State) : Bool := true

end Sys2Proof.Machine
end

