-- ==== Sys2Proof/Machine/Ops.lean ====
section
/-! DEFINITION. The named operations over registers and memory that every meaning is written in (00_scope.md rule R11): the
register file, the one memory interface (20_memory.md rule R52), the stack, and the entry to and return from the core's
one trap. -/

namespace Sys2Proof.Machine

/-! ## Registers (R11, R21): one accessor for each -/

/-- `x[i]`. Every index is read the same way; none is hardwired (R21). -/
def getReg (s : State) (i : Reg) : Word := s.regs[i.toNat]'(Config.reg_lt i)

/-- `x[i] <- v`. -/
def setReg (i : Reg) (v : Word) (s : State) : State := { s with regs := s.regs.set i.toNat v (Config.reg_lt i) }

/-- `pc <- v`. -/
def setPc (v : Pc) (s : State) : State := { s with pc := v }

/-- A word as a `pc` (D12: every word any rule writes to `pc` fits). -/
def pcOfWord (w : Word) : Pc := w.setWidth _

/-- A `pc` as a word (R25). -/
def wordOfPc (p : Pc) : Word := p.setWidth _

/-- `sp <- v`. -/
def setSp (v : Word) (s : State) : State := { s with sp := v }

/-- `C <- b`. -/
def setCarry (b : Bool) (s : State) : State := { s with carry := b }

/-- `Z <- b`. -/
def setZero (b : Bool) (s : State) : State := { s with zero := b }

/-- `CMP <- b`. -/
def setComparison (b : Bool) (s : State) : State := { s with comparison := b }

/-- `PRIV <- b`. -/
def setPriv (b : Bool) (s : State) : State := { s with priv := b }

/-- `reti <- v`. -/
def setReti (v : Word) (s : State) : State := { s with reti := v }

/-- The status the step returns (R102, R110). -/
def setStatus (x : Status) (s : State) : State := { s with status := x }

/-- `scratch <- …` (R107). -/
def setScratch (x : Scratch) (s : State) : State := { s with scratch := x }

/-- `cycles <- cycles + n` (R109). -/
def addCycles (n : Nat) (s : State) : State := { s with cycles := s.cycles + n }

/-! ## Memory as data -/

/-- The word listed for an address, if any. -/
def Memory.lookup (m : Memory) (a : Nat) : Option Word :=
  match m with
  | [] => none
  | (b, v) :: rest => if b = a then some v else Memory.lookup rest a

/-- List a word for an address: in its place by rising address, instead of what was listed there. -/
def Memory.insert (m : Memory) (a : Nat) (v : Word) : Memory :=
  match m with
  | [] => [(a, v)]
  | (b, u) :: rest =>
    if a < b then (a, v) :: (b, u) :: rest
    else if a = b then (a, v) :: rest
    else (b, u) :: Memory.insert rest a v

/-- Whether the listed addresses rise strictly, each above `low` where `low` is given. -/
def Memory.risesFrom (low : Option Nat) (m : Memory) : Bool :=
  match m with
  | [] => true
  | (a, _) :: rest =>
    (match low with
      | none => true
      | some b => decide (b < a)) && Memory.risesFrom (some a) rest

/-- The canonical form: strictly rising addresses, every one of them an address of memory (R50). An unlisted address holds
no written word, so no entry repeats what an unlisted address holds (log 2). -/
def Memory.wf (m : Memory) : Bool :=
  Memory.risesFrom none m && m.all fun c => decide (c.1 < Config.memWords)

/-- A program image as memory: word `k` of the image at address `base + k` (R280, R281). -/
def Memory.ofImage (base : Nat) (image : List Word) : Memory :=
  match image with
  | [] => []
  | w :: rest => (base, w) :: Memory.ofImage (base + 1) rest

/-! ## The memory interface (R51, R52) -/

/-- `a & ADDR_MASK` (R51): the address of the word that any 32-bit address names. -/
def maskAddr (a : Word) : Addr := (a &&& Config.addrMask).setWidth _

/-- `Mem[a]`: the latest word written to `a`, or its construction content, which outside the image is the filler, a
free value (R60, R280; D22, log 2). -/
def peek (s : State) (a : Addr) : Word := (Memory.lookup s.mem a.toNat).getD (Config.filler s.epoch a)

/-- `lastAccess <- some (a, v)` (R53). -/
def noteAccess (a : Addr) (v : Word) (s : State) : State := { s with lastAccess := some (a, v) }

/-- `Mem[a] <- v` and nothing else. -/
def pokeMem (a : Addr) (v : Word) (s : State) : State := { s with mem := Memory.insert s.mem a.toNat v }

/-- `MemRead(a, 1)` (R52): the word at the masked address, and the state with the access recorded. -/
def memRead (a : Word) (s : State) : Word × State :=
  (peek s (maskAddr a), noteAccess (maskAddr a) (peek s (maskAddr a)) s)

/-- `MemWrite(a, 1, v)` (R52): the word stored at the masked address and the access recorded. -/
def memWrite (a v : Word) (s : State) : State := noteAccess (maskAddr a) v (pokeMem (maskAddr a) v s)

/-! ## The stack (R27): `sp` moves modulo 2^32 and is masked when used -/

/-- Decrement `sp`, then store at it (R220). -/
def pushWord (v : Word) (s : State) : State := memWrite (s.sp - 1) v (setSp (s.sp - 1) s)

/-- Load at `sp`, then increment it (R221). -/
def popWord (s : State) : Word × State :=
  ((memRead s.sp s).1, setSp (s.sp + 1) (memRead s.sp s).2)

/-! ## The trap (R254 to R256) -/

/-- Entry (R240, R254): save the advanced pc in `reti` unmasked, push the flags word, set `PRIV`, load `pc` from the
vector cell unmasked (D17), and write the argument to the argument cell, in that order (D14, log 19). The order shows
when the pushed word lands on cell 0x40 or 0x41. -/
def enterSyscall (arg : Imm) (s : State) : State :=
  let s := setReti (wordOfPc s.pc) s
  let s := pushWord (flagsWord s) s
  let s := setPriv true s
  let (vector, s) := memRead Config.vectorAddr s
  let s := setPc (pcOfWord vector) s
  memWrite Config.argAddr (arg.setWidth _) s

/-- Return (R241, R256): pop a word into the three flags, `pc <- reti`, `PRIV <- false`. `reti` keeps its value. -/
def leaveSyscall (s : State) : State :=
  let (w, s) := popWord s
  let s := unpackFlags w s
  let s := setPc (pcOfWord s.reti) s
  setPriv false s

/-! ## Cycle accounting (R109, R115) -/

/-- `CLASS_COST(opc)` (R115): the stated costs, and for the other ten classes an open value in 1 to 3 (D19, log 7). -/
def classCost (opc : BitVec 4) : Nat :=
  match opc.toNat with
  | 0 => 1
  | 1 => 1
  | 6 => 1
  | 10 => 0
  | 11 => 0
  | 15 => 1
  | _ => 1 + (Config.openCost opc).val

end Sys2Proof.Machine
end

