-- ==== Sys2Proof/Machine/Layout.lean ====
section
/-! DEFINITION. The layout of an instruction word as one record (00_scope.md rule R8), and the two operations every field is
read and written by. -/

namespace Sys2Proof

/-- The spec's field positions (R72, R73; its decisions D1, D2, D7, D9: UNVERIFIED against the source, log 18). -/
def layout : Layout where
  opcLo := 28
  drLo := 24
  sr1Lo := 20
  sr2Lo := 16
  immLo := 0
  fnLo := 0
  sopLo := 0
  jmLo := 27
  jcLo := 24
  sLo := 24

/-- The `n` bits of `w` from bit `lo` up (R9). -/
def field (lo n : Nat) (w : Word) : BitVec n := w.extractLsb' lo n

/-- `v` at bits `lo` and up of an otherwise zero word (R89). -/
def put {n : Nat} (lo : Nat) (v : BitVec n) : Word := BitVec.setWidth _ v <<< lo

/-- The source register of STORE_ABS: the `sr1` field of a word that holds the address in its immediate field (R77). -/
def storeAbsSource (imm24 : Imm) : Reg := field layout.sr1Lo _ (put layout.immLo imm24)

end Sys2Proof
end

