-- ==== Sys2Proof/Syntax.lean ====
section
/-! DEFINITION. The instruction set as syntax: one constructor of `Instr` per instruction of spec/opcode_table.json (its
three CMPNV rows are one instruction, R176), with the fields the instruction's own rule reads and no ignored bit (R75). -/

namespace Sys2Proof

/-- The 56 mnemonics of spec/opcode_table.json (R78 to R83). -/
inductive Mnemonic where
  | nop
  | add
  | sub
  | mul
  | neg
  | and
  | or
  | not
  | nand
  | xor
  | xnor
  | shl
  | shr
  | asr
  | rol
  | ror
  | zero
  | cmpgt
  | cmpeq
  | cmplt
  | cmpge
  | cmple
  | cmpnv
  | jmp
  | jc
  | jnc
  | jcmp
  | jncmp
  | jz
  | jnz
  | jmpa
  | jmpr
  | jcr
  | jncr
  | jcmpr
  | jncmpr
  | jzr
  | jnzr
  | jmpar
  | loadAbs
  | loadInd
  | loadImm
  | storeAbs
  | storeInd
  | mov
  | rsv10
  | rsv11
  | push
  | pop
  | peek
  | szero
  | call
  | ret
  | syscall
  | reti
  | halt
  deriving DecidableEq, Repr

/-- An instruction with its operands. `dr`, `sr1`, `sr2` are register indices and `imm24` the unsigned immediate (R72). -/
inductive Instr where
  /-- NOP, R130. -/
  | nop
  /-- ADD, R142. -/
  | add (dr : Reg) (sr1 : Reg) (sr2 : Reg)
  /-- SUB, R143. -/
  | sub (dr : Reg) (sr1 : Reg) (sr2 : Reg)
  /-- MUL, R144. -/
  | mul (dr : Reg) (sr1 : Reg) (sr2 : Reg)
  /-- NEG, R145. -/
  | neg (dr : Reg) (sr1 : Reg)
  /-- AND, R146. -/
  | and (dr : Reg) (sr1 : Reg) (sr2 : Reg)
  /-- OR, R147. -/
  | or (dr : Reg) (sr1 : Reg) (sr2 : Reg)
  /-- NOT, R148. -/
  | not (dr : Reg) (sr1 : Reg)
  /-- NAND, R149. -/
  | nand (dr : Reg) (sr1 : Reg) (sr2 : Reg)
  /-- XOR, R150. -/
  | xor (dr : Reg) (sr1 : Reg) (sr2 : Reg)
  /-- XNOR, R151. -/
  | xnor (dr : Reg) (sr1 : Reg) (sr2 : Reg)
  /-- SHL, R152. -/
  | shl (dr : Reg) (sr1 : Reg) (sr2 : Reg)
  /-- SHR, R153. -/
  | shr (dr : Reg) (sr1 : Reg) (sr2 : Reg)
  /-- ASR, R154. -/
  | asr (dr : Reg) (sr1 : Reg) (sr2 : Reg)
  /-- ROL, R155. -/
  | rol (dr : Reg) (sr1 : Reg) (sr2 : Reg)
  /-- ROR, R156. -/
  | ror (dr : Reg) (sr1 : Reg) (sr2 : Reg)
  /-- ZERO, R157. -/
  | zero (dr : Reg)
  /-- CMPGT, R171. -/
  | cmpgt (sr1 : Reg) (sr2 : Reg)
  /-- CMPEQ, R172. -/
  | cmpeq (sr1 : Reg) (sr2 : Reg)
  /-- CMPLT, R173. -/
  | cmplt (sr1 : Reg) (sr2 : Reg)
  /-- CMPGE, R174. -/
  | cmpge (sr1 : Reg) (sr2 : Reg)
  /-- CMPLE, R175. -/
  | cmple (sr1 : Reg) (sr2 : Reg)
  /-- CMPNV, R176. `fn` is the selector as the word holds it, one of 5 to 15 (R176). -/
  | cmpnv (fn : BitVec 4) (sr1 : Reg) (sr2 : Reg)
  /-- JMP, R182. -/
  | jmp (imm24 : Imm)
  /-- JC, R183. -/
  | jc (imm24 : Imm)
  /-- JNC, R184. -/
  | jnc (imm24 : Imm)
  /-- JCMP, R185. -/
  | jcmp (imm24 : Imm)
  /-- JNCMP, R186. -/
  | jncmp (imm24 : Imm)
  /-- JZ, R187. -/
  | jz (imm24 : Imm)
  /-- JNZ, R188. -/
  | jnz (imm24 : Imm)
  /-- JMPA, R189. -/
  | jmpa (imm24 : Imm)
  /-- JMPR, R190. -/
  | jmpr (sr2 : Reg)
  /-- JCR, R191. -/
  | jcr (sr2 : Reg)
  /-- JNCR, R192. -/
  | jncr (sr2 : Reg)
  /-- JCMPR, R193. -/
  | jcmpr (sr2 : Reg)
  /-- JNCMPR, R194. -/
  | jncmpr (sr2 : Reg)
  /-- JZR, R195. -/
  | jzr (sr2 : Reg)
  /-- JNZR, R196. -/
  | jnzr (sr2 : Reg)
  /-- JMPAR, R197. -/
  | jmpar (sr2 : Reg)
  /-- LOAD_ABS, R210. -/
  | loadAbs (dr : Reg) (imm24 : Imm)
  /-- LOAD_IND, R211. -/
  | loadInd (dr : Reg) (sr2 : Reg)
  /-- LOAD_IMM, R212. -/
  | loadImm (dr : Reg) (imm24 : Imm)
  /-- STORE_ABS, R213. `sr1` is the source register; a word carries it in the top four bits of the address (R77). -/
  | storeAbs (sr1 : Reg) (imm24 : Imm)
  /-- STORE_IND, R214. -/
  | storeInd (sr1 : Reg) (sr2 : Reg)
  /-- MOV, R215. -/
  | mov (dr : Reg) (sr1 : Reg)
  /-- RSV10, R131. -/
  | rsv10
  /-- RSV11, R132. -/
  | rsv11
  /-- PUSH, R220. -/
  | push (sr1 : Reg)
  /-- POP, R221. -/
  | pop (dr : Reg)
  /-- PEEK, R222. -/
  | peek (dr : Reg)
  /-- SZERO, R223. -/
  | szero (dr : Reg)
  /-- CALL, R230. -/
  | call (imm24 : Imm)
  /-- RET, R231. -/
  | ret
  /-- SYSCALL, R240. -/
  | syscall (imm24 : Imm)
  /-- RETI, R241. -/
  | reti
  /-- HALT, R133. -/
  | halt
  deriving DecidableEq, Repr

/-- The mnemonic of an instruction: the `mnemonic` of its row in spec/opcode_table.json. -/
def Instr.mnemonic : Instr → Mnemonic
  | .nop => .nop
  | .add _ _ _ => .add
  | .sub _ _ _ => .sub
  | .mul _ _ _ => .mul
  | .neg _ _ => .neg
  | .and _ _ _ => .and
  | .or _ _ _ => .or
  | .not _ _ => .not
  | .nand _ _ _ => .nand
  | .xor _ _ _ => .xor
  | .xnor _ _ _ => .xnor
  | .shl _ _ _ => .shl
  | .shr _ _ _ => .shr
  | .asr _ _ _ => .asr
  | .rol _ _ _ => .rol
  | .ror _ _ _ => .ror
  | .zero _ => .zero
  | .cmpgt _ _ => .cmpgt
  | .cmpeq _ _ => .cmpeq
  | .cmplt _ _ => .cmplt
  | .cmpge _ _ => .cmpge
  | .cmple _ _ => .cmple
  | .cmpnv _ _ _ => .cmpnv
  | .jmp _ => .jmp
  | .jc _ => .jc
  | .jnc _ => .jnc
  | .jcmp _ => .jcmp
  | .jncmp _ => .jncmp
  | .jz _ => .jz
  | .jnz _ => .jnz
  | .jmpa _ => .jmpa
  | .jmpr _ => .jmpr
  | .jcr _ => .jcr
  | .jncr _ => .jncr
  | .jcmpr _ => .jcmpr
  | .jncmpr _ => .jncmpr
  | .jzr _ => .jzr
  | .jnzr _ => .jnzr
  | .jmpar _ => .jmpar
  | .loadAbs _ _ => .loadAbs
  | .loadInd _ _ => .loadInd
  | .loadImm _ _ => .loadImm
  | .storeAbs _ _ => .storeAbs
  | .storeInd _ _ => .storeInd
  | .mov _ _ => .mov
  | .rsv10 => .rsv10
  | .rsv11 => .rsv11
  | .push _ => .push
  | .pop _ => .pop
  | .peek _ => .peek
  | .szero _ => .szero
  | .call _ => .call
  | .ret => .ret
  | .syscall _ => .syscall
  | .reti => .reti
  | .halt => .halt

end Sys2Proof
end

