-- ==== Sys2Proof/WellFormed.lean ====
section
/-! DEFINITION. Which instructions have an encoding. Every register index and immediate fits its field by its type; two
checks remain. -/

namespace Sys2Proof

/-- Well-formed instructions (R90). Two checks: a CMPNV selector is one of 5 to 15 (R80), and the source register of a
STORE_ABS is the top four bits of its address (R77), "else the assembler refuses the line". -/
def Instr.wellFormed : Instr → Bool
  | .nop => true
  | .add _ _ _ => true
  | .sub _ _ _ => true
  | .mul _ _ _ => true
  | .neg _ _ => true
  | .and _ _ _ => true
  | .or _ _ _ => true
  | .not _ _ => true
  | .nand _ _ _ => true
  | .xor _ _ _ => true
  | .xnor _ _ _ => true
  | .shl _ _ _ => true
  | .shr _ _ _ => true
  | .asr _ _ _ => true
  | .rol _ _ _ => true
  | .ror _ _ _ => true
  | .zero _ => true
  | .cmpgt _ _ => true
  | .cmpeq _ _ => true
  | .cmplt _ _ => true
  | .cmpge _ _ => true
  | .cmple _ _ => true
  | .cmpnv fn _ _ => decide (5 ≤ fn.toNat)
  | .jmp _ => true
  | .jc _ => true
  | .jnc _ => true
  | .jcmp _ => true
  | .jncmp _ => true
  | .jz _ => true
  | .jnz _ => true
  | .jmpa _ => true
  | .jmpr _ => true
  | .jcr _ => true
  | .jncr _ => true
  | .jcmpr _ => true
  | .jncmpr _ => true
  | .jzr _ => true
  | .jnzr _ => true
  | .jmpar _ => true
  | .loadAbs _ _ => true
  | .loadInd _ _ => true
  | .loadImm _ _ => true
  | .storeAbs sr1 imm24 => sr1 == storeAbsSource imm24
  | .storeInd _ _ => true
  | .mov _ _ => true
  | .rsv10 => true
  | .rsv11 => true
  | .push _ => true
  | .pop _ => true
  | .peek _ => true
  | .szero _ => true
  | .call _ => true
  | .ret => true
  | .syscall _ => true
  | .reti => true
  | .halt => true

end Sys2Proof
end

