-- ==== Sys2Proof/Machine/Operands.lean ====
section
/-! DEFINITION. Every operand form of the spec: the three addressing modes of 45_load_store_move.md, the two jump targets
(R81) and the shift amount (R158). -/

namespace Sys2Proof.Machine

/-- Absolute: the address is `imm24` (R74). -/
def absoluteAddr (imm24 : Imm) : Word := imm24.setWidth _

/-- Register indirect: the address is `x[sr2]`, masked by the memory interface (R211, R214). -/
def indirectAddr (sr2 : Reg) (s : State) : Word := getReg s sr2

/-- Immediate: the value is `zext_32(imm24)` (R74, R212). -/
def immediateValue (imm24 : Imm) : Word := imm24.setWidth _

/-- The target of an immediate-target jump and of CALL (R180, R230). -/
def immediateTarget (imm24 : Imm) : Pc := imm24.setWidth _

/-- The target of a register-target jump: `x[sr2] & ADDR_MASK` (R181). -/
def registerTarget (sr2 : Reg) (s : State) : Pc := pcOfWord (getReg s sr2 &&& Config.addrMask)

/-- The amount of a shift or rotate: `b & 31` (R158; D6, log 19). -/
def shiftAmount (b : Word) : Nat := (b &&& Config.shiftMask).toNat

/-- The return address CALL stores: the advanced pc, masked (R230). -/
def returnAddress (s : State) : Word := wordOfPc s.pc &&& Config.addrMask

end Sys2Proof.Machine
end

