-- ==== Sys2Proof/Machine/Alu.lean ====
section
/-! DEFINITION. Class 1, ALU-compute (42_alu.md). Operands are read before the result is written (R140; D11, log 19). -/

namespace Sys2Proof.Machine

/-- ADD: `(a + b) mod 2^32` (R142). -/
def aluAdd (a b : Word) : Word :=
  a + b

/-- SUB: `(a - b) mod 2^32`, operand order `sr1 - sr2` (R143; D6). -/
def aluSub (a b : Word) : Word :=
  a - b

/-- MUL: the low 32 bits of the product (R144). -/
def aluMul (a b : Word) : Word :=
  a * b

/-- NEG: `(2^32 - a) mod 2^32` (R145). -/
def aluNeg (a : Word) : Word :=
  0 - a

/-- AND (R146). -/
def aluAnd (a b : Word) : Word :=
  a &&& b

/-- OR (R147). -/
def aluOr (a b : Word) : Word :=
  a ||| b

/-- NOT (R148). -/
def aluNot (a : Word) : Word :=
  ~~~a

/-- NAND (R149; GK2, log 20). -/
def aluNand (a b : Word) : Word :=
  ~~~(a &&& b)

/-- XOR (R150). -/
def aluXor (a b : Word) : Word :=
  a ^^^ b

/-- XNOR (R151; GK3, log 20). -/
def aluXnor (a b : Word) : Word :=
  ~~~(a ^^^ b)

/-- SHL: vacated low bits 0 (R152). -/
def aluShl (a b : Word) : Word :=
  a <<< shiftAmount b

/-- SHR: vacated high bits 0 (R153). -/
def aluShr (a b : Word) : Word :=
  a >>> shiftAmount b

/-- ASR: "currently implemented identically to logical-shift-right", the sign bit is not replicated (R154; U1). -/
def aluAsr (a b : Word) : Word :=
  a >>> shiftAmount b

/-- ROL (R155; GK4, log 20). -/
def aluRol (a b : Word) : Word :=
  let n := shiftAmount b
  if n = 0 then a else (a <<< n) ||| (a >>> (Config.xlen - n))

/-- ROR (R156; GK5, log 20). -/
def aluRor (a b : Word) : Word :=
  let n := shiftAmount b
  if n = 0 then a else (a >>> n) ||| (a <<< (Config.xlen - n))

/-- ZERO (R157). -/
def aluZero : Word :=
  0

/-- The end of every class-1 instruction (R140): `x[dr] <- r`, `Z <- (r == 0)`. -/
def aluFinish (dr : Reg) (r : Word) (s : State) : State := setZero (isZero r) (setReg dr r s)

/-- The frame of a binary operation that leaves `C` (R140, R141). -/
def aluBinary (f : Word → Word → Word) (dr sr1 sr2 : Reg) (s : State) : State :=
  aluFinish dr (f (getReg s sr1) (getReg s sr2)) s

/-- The frame of a unary operation (R140). -/
def aluUnary (f : Word → Word) (dr sr1 : Reg) (s : State) : State := aluFinish dr (f (getReg s sr1)) s

/-- ADD (R142): the frame of R140, and `C` by R141. -/
def execAdd (dr sr1 sr2 : Reg) (s : State) : Host.Outcome State Fault Refusal :=
  let a := getReg s sr1
  let b := getReg s sr2
  .next (setCarry (addCarry a b (aluAdd a b)) (aluFinish dr (aluAdd a b) s))

/-- SUB (R143). -/
def execSub (dr sr1 sr2 : Reg) (s : State) : Host.Outcome State Fault Refusal :=
  .next (aluBinary aluSub dr sr1 sr2 s)

/-- MUL (R144). -/
def execMul (dr sr1 sr2 : Reg) (s : State) : Host.Outcome State Fault Refusal :=
  .next (aluBinary aluMul dr sr1 sr2 s)

/-- NEG (R145). -/
def execNeg (dr sr1 : Reg) (s : State) : Host.Outcome State Fault Refusal :=
  .next (aluUnary aluNeg dr sr1 s)

/-- AND (R146). -/
def execAnd (dr sr1 sr2 : Reg) (s : State) : Host.Outcome State Fault Refusal :=
  .next (aluBinary aluAnd dr sr1 sr2 s)

/-- OR (R147). -/
def execOr (dr sr1 sr2 : Reg) (s : State) : Host.Outcome State Fault Refusal :=
  .next (aluBinary aluOr dr sr1 sr2 s)

/-- NOT (R148). -/
def execNot (dr sr1 : Reg) (s : State) : Host.Outcome State Fault Refusal :=
  .next (aluUnary aluNot dr sr1 s)

/-- NAND (R149). -/
def execNand (dr sr1 sr2 : Reg) (s : State) : Host.Outcome State Fault Refusal :=
  .next (aluBinary aluNand dr sr1 sr2 s)

/-- XOR (R150). -/
def execXor (dr sr1 sr2 : Reg) (s : State) : Host.Outcome State Fault Refusal :=
  .next (aluBinary aluXor dr sr1 sr2 s)

/-- XNOR (R151). -/
def execXnor (dr sr1 sr2 : Reg) (s : State) : Host.Outcome State Fault Refusal :=
  .next (aluBinary aluXnor dr sr1 sr2 s)

/-- SHL (R152). -/
def execShl (dr sr1 sr2 : Reg) (s : State) : Host.Outcome State Fault Refusal :=
  .next (aluBinary aluShl dr sr1 sr2 s)

/-- SHR (R153). -/
def execShr (dr sr1 sr2 : Reg) (s : State) : Host.Outcome State Fault Refusal :=
  .next (aluBinary aluShr dr sr1 sr2 s)

/-- ASR (R154). -/
def execAsr (dr sr1 sr2 : Reg) (s : State) : Host.Outcome State Fault Refusal :=
  .next (aluBinary aluAsr dr sr1 sr2 s)

/-- ROL (R155). -/
def execRol (dr sr1 sr2 : Reg) (s : State) : Host.Outcome State Fault Refusal :=
  .next (aluBinary aluRol dr sr1 sr2 s)

/-- ROR (R156). -/
def execRor (dr sr1 sr2 : Reg) (s : State) : Host.Outcome State Fault Refusal :=
  .next (aluBinary aluRor dr sr1 sr2 s)

/-- ZERO (R157). -/
def execZero (dr : Reg) (s : State) : Host.Outcome State Fault Refusal :=
  .next (aluFinish dr aluZero s)

end Sys2Proof.Machine
end

