-- ==== Sys2Proof/Machine/Compare.lean ====
section
/-! DEFINITION. Class 2, ALU-compare (43_compare.md): only `CMP` is written (R170). -/

namespace Sys2Proof.Machine

/-- The frame of class 2 (R170): `CMP <- rel(x[sr1], x[sr2])`. -/
def compareRegs (rel : Word → Word → Bool) (sr1 sr2 : Reg) (s : State) : State :=
  setComparison (rel (getReg s sr1) (getReg s sr2)) s

/-- CMPGT (R171). -/
def execCmpgt (sr1 sr2 : Reg) (s : State) : Host.Outcome State Fault Refusal :=
  .next (compareRegs relGt sr1 sr2 s)

/-- CMPEQ (R172). -/
def execCmpeq (sr1 sr2 : Reg) (s : State) : Host.Outcome State Fault Refusal :=
  .next (compareRegs relEq sr1 sr2 s)

/-- CMPLT (R173). -/
def execCmplt (sr1 sr2 : Reg) (s : State) : Host.Outcome State Fault Refusal :=
  .next (compareRegs relLt sr1 sr2 s)

/-- CMPGE (R174). -/
def execCmpge (sr1 sr2 : Reg) (s : State) : Host.Outcome State Fault Refusal :=
  .next (compareRegs relGe sr1 sr2 s)

/-- CMPLE (R175). -/
def execCmple (sr1 sr2 : Reg) (s : State) : Host.Outcome State Fault Refusal :=
  .next (compareRegs relLe sr1 sr2 s)

/-- CMPNV (R176): every `fn` of 5 to 15 behaves the same. -/
def execCmpnv (sr1 sr2 : Reg) (s : State) : Host.Outcome State Fault Refusal :=
  .next (compareRegs relNever sr1 sr2 s)

end Sys2Proof.Machine
end

