-- ==== Sys2Proof/Machine/Control.lean ====
section
/-! DEFINITION. Classes 13 and 14: call and return (47_call_return.md), system call and its return (48_syscall.md). -/

namespace Sys2Proof.Machine

/-- CALL (R230): push the masked return address, `pc <- imm24`, push the flags word. -/
def execCall (imm24 : Imm) (s : State) : Host.Outcome State Fault Refusal :=
  let s := pushWord (returnAddress s) s
  let s := setPc (immediateTarget imm24) s
  .next (pushWord (flagsWord s) s)

/-- RET (R231): pop the flags word, then the return address, unmasked, then unpack the flags. The order is that of
90_conflicts.md C1 (UNVERIFIED against the source, log 17). -/
def execRet (s : State) : Host.Outcome State Fault Refusal :=
  let (w, s) := popWord s
  let (target, s) := popWord s
  .next (unpackFlags w (setPc (pcOfWord target) s))

/-- SYSCALL (R240): the trap is its effect. -/
def execSyscall (imm24 : Imm) (s : State) : Host.Outcome State Fault Refusal :=
  .next (enterSyscall imm24 s)

/-- RETI (R241), taken whatever `PRIV` is. -/
def execReti (s : State) : Host.Outcome State Fault Refusal :=
  .next (leaveSyscall s)

end Sys2Proof.Machine
end

