-- ==== Sys2Proof/Machine/Inert.lean ====
section
/-! DEFINITION. Classes 0, 10, 11 and 15 (41_nop_reserved_halt.md): no operand, no register, flag or memory word changed. -/

namespace Sys2Proof.Machine

/-- NOP (R130). -/
def execNop (s : State) : Host.Outcome State Fault Refusal :=
  .next s

/-- RSV10 (R131): "explicitly inert"; it does not trap. -/
def execRsv10 (s : State) : Host.Outcome State Fault Refusal :=
  .next s

/-- RSV11 (R132). -/
def execRsv11 (s : State) : Host.Outcome State Fault Refusal :=
  .next s

/-- HALT (R133, R117): it changes the step's status (R110) and nothing else; the core does not stop itself. -/
def execHalt (s : State) : Host.Outcome State Fault Refusal :=
  .next (setStatus .halt s)

end Sys2Proof.Machine
end

