-- ==== Sys2Proof/Machine/Jump.lean ====
section
/-! DEFINITION. Class 3, jump (44_jump.md). `pc` is the advanced pc when a meaning runs, so a condition that fails leaves it (R180). -/

namespace Sys2Proof.Machine

/-- The frame of class 3 (R180): `pc <- target` when the condition holds. -/
def jumpIf (cond : Bool) (target : Pc) (s : State) : State := if cond then setPc target s else s

/-- JMP (R182). -/
def execJmp (imm24 : Imm) (s : State) : Host.Outcome State Fault Refusal :=
  .next (jumpIf (condAlways s) (immediateTarget imm24) s)

/-- JC (R183). -/
def execJc (imm24 : Imm) (s : State) : Host.Outcome State Fault Refusal :=
  .next (jumpIf (condCarry s) (immediateTarget imm24) s)

/-- JNC (R184). -/
def execJnc (imm24 : Imm) (s : State) : Host.Outcome State Fault Refusal :=
  .next (jumpIf (condNotCarry s) (immediateTarget imm24) s)

/-- JCMP (R185). -/
def execJcmp (imm24 : Imm) (s : State) : Host.Outcome State Fault Refusal :=
  .next (jumpIf (condComparison s) (immediateTarget imm24) s)

/-- JNCMP (R186). -/
def execJncmp (imm24 : Imm) (s : State) : Host.Outcome State Fault Refusal :=
  .next (jumpIf (condNotComparison s) (immediateTarget imm24) s)

/-- JZ (R187). -/
def execJz (imm24 : Imm) (s : State) : Host.Outcome State Fault Refusal :=
  .next (jumpIf (condZero s) (immediateTarget imm24) s)

/-- JNZ (R188). -/
def execJnz (imm24 : Imm) (s : State) : Host.Outcome State Fault Refusal :=
  .next (jumpIf (condNotZero s) (immediateTarget imm24) s)

/-- JMPA (R189). -/
def execJmpa (imm24 : Imm) (s : State) : Host.Outcome State Fault Refusal :=
  .next (jumpIf (condAlwaysDuplicate s) (immediateTarget imm24) s)

/-- JMPR (R190). -/
def execJmpr (sr2 : Reg) (s : State) : Host.Outcome State Fault Refusal :=
  .next (jumpIf (condAlways s) (registerTarget sr2 s) s)

/-- JCR (R191). -/
def execJcr (sr2 : Reg) (s : State) : Host.Outcome State Fault Refusal :=
  .next (jumpIf (condCarry s) (registerTarget sr2 s) s)

/-- JNCR (R192). -/
def execJncr (sr2 : Reg) (s : State) : Host.Outcome State Fault Refusal :=
  .next (jumpIf (condNotCarry s) (registerTarget sr2 s) s)

/-- JCMPR (R193). -/
def execJcmpr (sr2 : Reg) (s : State) : Host.Outcome State Fault Refusal :=
  .next (jumpIf (condComparison s) (registerTarget sr2 s) s)

/-- JNCMPR (R194). -/
def execJncmpr (sr2 : Reg) (s : State) : Host.Outcome State Fault Refusal :=
  .next (jumpIf (condNotComparison s) (registerTarget sr2 s) s)

/-- JZR (R195). -/
def execJzr (sr2 : Reg) (s : State) : Host.Outcome State Fault Refusal :=
  .next (jumpIf (condZero s) (registerTarget sr2 s) s)

/-- JNZR (R196). -/
def execJnzr (sr2 : Reg) (s : State) : Host.Outcome State Fault Refusal :=
  .next (jumpIf (condNotZero s) (registerTarget sr2 s) s)

/-- JMPAR (R197). -/
def execJmpar (sr2 : Reg) (s : State) : Host.Outcome State Fault Refusal :=
  .next (jumpIf (condAlwaysDuplicate s) (registerTarget sr2 s) s)

end Sys2Proof.Machine
end

