-- ==== Sys2Proof/Machine/Stack.lean ====
section
/-! DEFINITION. Class 12, stack operations (46_stack.md). None writes a flag; nothing checks for overflow or underflow. -/

namespace Sys2Proof.Machine

/-- PUSH (R220). -/
def execPush (sr1 : Reg) (s : State) : Host.Outcome State Fault Refusal :=
  .next (pushWord (getReg s sr1) s)

/-- POP (R221). -/
def execPop (dr : Reg) (s : State) : Host.Outcome State Fault Refusal :=
  .next (setReg dr (popWord s).1 (popWord s).2)

/-- PEEK (R222): `sp` does not move. -/
def execPeek (dr : Reg) (s : State) : Host.Outcome State Fault Refusal :=
  .next (setReg dr (memRead s.sp s).1 (memRead s.sp s).2)

/-- SZERO (R223): unlike ZERO it leaves `Z`. -/
def execSzero (dr : Reg) (s : State) : Host.Outcome State Fault Refusal :=
  .next (setReg dr 0 s)

end Sys2Proof.Machine
end

