-- ==== Sys2Proof/Machine/Transfer.lean ====
section
/-! DEFINITION. Classes 4 to 9: loads, stores and move (45_load_store_move.md). None writes a flag (D28, log 19). -/

namespace Sys2Proof.Machine

/-- `x[dr] <- MemRead(a, 1)`. -/
def loadWord (dr : Reg) (a : Word) (s : State) : State := setReg dr (memRead a s).1 (memRead a s).2

/-- LOAD_ABS (R210). -/
def execLoadAbs (dr : Reg) (imm24 : Imm) (s : State) : Host.Outcome State Fault Refusal :=
  .next (loadWord dr (absoluteAddr imm24) s)

/-- LOAD_IND (R211): the address is read before the write. -/
def execLoadInd (dr sr2 : Reg) (s : State) : Host.Outcome State Fault Refusal :=
  .next (loadWord dr (indirectAddr sr2 s) s)

/-- LOAD_IMM (R212): no memory access, and `Z` is not written. -/
def execLoadImm (dr : Reg) (imm24 : Imm) (s : State) : Host.Outcome State Fault Refusal :=
  .next (setReg dr (immediateValue imm24) s)

/-- STORE_ABS (R213). A word carries `sr1` in `imm24[23:20]` (R77). -/
def execStoreAbs (sr1 : Reg) (imm24 : Imm) (s : State) : Host.Outcome State Fault Refusal :=
  .next (memWrite (absoluteAddr imm24) (getReg s sr1) s)

/-- STORE_IND (R214). -/
def execStoreInd (sr1 sr2 : Reg) (s : State) : Host.Outcome State Fault Refusal :=
  .next (memWrite (indirectAddr sr2 s) (getReg s sr1) s)

/-- MOV (R215). -/
def execMov (dr sr1 : Reg) (s : State) : Host.Outcome State Fault Refusal :=
  .next (setReg dr (getReg s sr1) s)

end Sys2Proof.Machine
end

