-- ==== Sys2Proof/Machine/Dispatch.lean ====
section
/-! DEFINITION. The dispatch multiplexer (40_fetch_step.md rule R108): one instruction rule for each instruction. A meaning
runs after the fetch unit (R103 to R107) and before the cycle update (R109): `pc` is the advanced pc (log 21). -/

namespace Sys2Proof.Machine

def exec (i : Instr) (s : State) : Host.Outcome State Fault Refusal :=
  match i with
  | .nop => Sys2Proof.Machine.execNop s
  | .add dr sr1 sr2 => Sys2Proof.Machine.execAdd dr sr1 sr2 s
  | .sub dr sr1 sr2 => Sys2Proof.Machine.execSub dr sr1 sr2 s
  | .mul dr sr1 sr2 => Sys2Proof.Machine.execMul dr sr1 sr2 s
  | .neg dr sr1 => Sys2Proof.Machine.execNeg dr sr1 s
  | .and dr sr1 sr2 => Sys2Proof.Machine.execAnd dr sr1 sr2 s
  | .or dr sr1 sr2 => Sys2Proof.Machine.execOr dr sr1 sr2 s
  | .not dr sr1 => Sys2Proof.Machine.execNot dr sr1 s
  | .nand dr sr1 sr2 => Sys2Proof.Machine.execNand dr sr1 sr2 s
  | .xor dr sr1 sr2 => Sys2Proof.Machine.execXor dr sr1 sr2 s
  | .xnor dr sr1 sr2 => Sys2Proof.Machine.execXnor dr sr1 sr2 s
  | .shl dr sr1 sr2 => Sys2Proof.Machine.execShl dr sr1 sr2 s
  | .shr dr sr1 sr2 => Sys2Proof.Machine.execShr dr sr1 sr2 s
  | .asr dr sr1 sr2 => Sys2Proof.Machine.execAsr dr sr1 sr2 s
  | .rol dr sr1 sr2 => Sys2Proof.Machine.execRol dr sr1 sr2 s
  | .ror dr sr1 sr2 => Sys2Proof.Machine.execRor dr sr1 sr2 s
  | .zero dr => Sys2Proof.Machine.execZero dr s
  | .cmpgt sr1 sr2 => Sys2Proof.Machine.execCmpgt sr1 sr2 s
  | .cmpeq sr1 sr2 => Sys2Proof.Machine.execCmpeq sr1 sr2 s
  | .cmplt sr1 sr2 => Sys2Proof.Machine.execCmplt sr1 sr2 s
  | .cmpge sr1 sr2 => Sys2Proof.Machine.execCmpge sr1 sr2 s
  | .cmple sr1 sr2 => Sys2Proof.Machine.execCmple sr1 sr2 s
  | .cmpnv _ sr1 sr2 => Sys2Proof.Machine.execCmpnv sr1 sr2 s
  | .jmp imm24 => Sys2Proof.Machine.execJmp imm24 s
  | .jc imm24 => Sys2Proof.Machine.execJc imm24 s
  | .jnc imm24 => Sys2Proof.Machine.execJnc imm24 s
  | .jcmp imm24 => Sys2Proof.Machine.execJcmp imm24 s
  | .jncmp imm24 => Sys2Proof.Machine.execJncmp imm24 s
  | .jz imm24 => Sys2Proof.Machine.execJz imm24 s
  | .jnz imm24 => Sys2Proof.Machine.execJnz imm24 s
  | .jmpa imm24 => Sys2Proof.Machine.execJmpa imm24 s
  | .jmpr sr2 => Sys2Proof.Machine.execJmpr sr2 s
  | .jcr sr2 => Sys2Proof.Machine.execJcr sr2 s
  | .jncr sr2 => Sys2Proof.Machine.execJncr sr2 s
  | .jcmpr sr2 => Sys2Proof.Machine.execJcmpr sr2 s
  | .jncmpr sr2 => Sys2Proof.Machine.execJncmpr sr2 s
  | .jzr sr2 => Sys2Proof.Machine.execJzr sr2 s
  | .jnzr sr2 => Sys2Proof.Machine.execJnzr sr2 s
  | .jmpar sr2 => Sys2Proof.Machine.execJmpar sr2 s
  | .loadAbs dr imm24 => Sys2Proof.Machine.execLoadAbs dr imm24 s
  | .loadInd dr sr2 => Sys2Proof.Machine.execLoadInd dr sr2 s
  | .loadImm dr imm24 => Sys2Proof.Machine.execLoadImm dr imm24 s
  | .storeAbs sr1 imm24 => Sys2Proof.Machine.execStoreAbs sr1 imm24 s
  | .storeInd sr1 sr2 => Sys2Proof.Machine.execStoreInd sr1 sr2 s
  | .mov dr sr1 => Sys2Proof.Machine.execMov dr sr1 s
  | .rsv10 => Sys2Proof.Machine.execRsv10 s
  | .rsv11 => Sys2Proof.Machine.execRsv11 s
  | .push sr1 => Sys2Proof.Machine.execPush sr1 s
  | .pop dr => Sys2Proof.Machine.execPop dr s
  | .peek dr => Sys2Proof.Machine.execPeek dr s
  | .szero dr => Sys2Proof.Machine.execSzero dr s
  | .call imm24 => Sys2Proof.Machine.execCall imm24 s
  | .ret => Sys2Proof.Machine.execRet s
  | .syscall imm24 => Sys2Proof.Machine.execSyscall imm24 s
  | .reti => Sys2Proof.Machine.execReti s
  | .halt => Sys2Proof.Machine.execHalt s

end Sys2Proof.Machine
end

