-- ==== Sys2Proof/Decode.lean ====
section
/-! DEFINITION. The decoder, the encoder and the opcode table. The decoder is total and rejects by name; under the spec's
layout it rejects no 32-bit word (30_encoding.md rule R85). -/

namespace Sys2Proof

/-! ## Field extraction (R72, R73): every field of every word, whatever its class -/

def opcOf (w : Word) : BitVec 4 := field layout.opcLo _ w
def drOf (w : Word) : Reg := field layout.drLo _ w
def sr1Of (w : Word) : Reg := field layout.sr1Lo _ w
def sr2Of (w : Word) : Reg := field layout.sr2Lo _ w
def immOf (w : Word) : Imm := field layout.immLo _ w
def fnOf (w : Word) : BitVec 4 := field layout.fnLo _ w
def sopOf (w : Word) : BitVec 2 := field layout.sopLo _ w
def jmOf (w : Word) : BitVec 1 := field layout.jmLo _ w
def jcOf (w : Word) : BitVec 3 := field layout.jcLo _ w
def sOf (w : Word) : BitVec 1 := field layout.sLo _ w

/-! ## The decoder -/

/-- Why a word has no instruction. -/
inductive DecodeError where
  /-- A selector value that no instruction has (R253). Safe: no word of this layout has one (R85, log 6). -/
  | invalidOpcode (w : Word)
  deriving DecidableEq, Repr

/-- Class 1: `fn` selects the operation (R79). -/
def decodeAlu (w : Word) : Except DecodeError Instr :=
  match (fnOf w).toNat with
  | 0 => .ok (.add (drOf w) (sr1Of w) (sr2Of w))
  | 1 => .ok (.sub (drOf w) (sr1Of w) (sr2Of w))
  | 2 => .ok (.mul (drOf w) (sr1Of w) (sr2Of w))
  | 3 => .ok (.neg (drOf w) (sr1Of w))
  | 4 => .ok (.and (drOf w) (sr1Of w) (sr2Of w))
  | 5 => .ok (.or (drOf w) (sr1Of w) (sr2Of w))
  | 6 => .ok (.not (drOf w) (sr1Of w))
  | 7 => .ok (.nand (drOf w) (sr1Of w) (sr2Of w))
  | 8 => .ok (.xor (drOf w) (sr1Of w) (sr2Of w))
  | 9 => .ok (.xnor (drOf w) (sr1Of w) (sr2Of w))
  | 10 => .ok (.shl (drOf w) (sr1Of w) (sr2Of w))
  | 11 => .ok (.shr (drOf w) (sr1Of w) (sr2Of w))
  | 12 => .ok (.asr (drOf w) (sr1Of w) (sr2Of w))
  | 13 => .ok (.rol (drOf w) (sr1Of w) (sr2Of w))
  | 14 => .ok (.ror (drOf w) (sr1Of w) (sr2Of w))
  | 15 => .ok (.zero (drOf w))
  | _ => .error (.invalidOpcode w)

/-- Class 2: `fn` selects the test; 5 to 15 are CMPNV (R80). -/
def decodeCompare (w : Word) : Except DecodeError Instr :=
  match (fnOf w).toNat with
  | 0 => .ok (.cmpgt (sr1Of w) (sr2Of w))
  | 1 => .ok (.cmpeq (sr1Of w) (sr2Of w))
  | 2 => .ok (.cmplt (sr1Of w) (sr2Of w))
  | 3 => .ok (.cmpge (sr1Of w) (sr2Of w))
  | 4 => .ok (.cmple (sr1Of w) (sr2Of w))
  | _ => .ok (.cmpnv (fnOf w) (sr1Of w) (sr2Of w))

/-- Class 3 with `jm` = 0: `jc` selects the condition, the target is `imm24` (R81). -/
def decodeJumpImm (w : Word) : Except DecodeError Instr :=
  match (jcOf w).toNat with
  | 0 => .ok (.jmp (immOf w))
  | 1 => .ok (.jc (immOf w))
  | 2 => .ok (.jnc (immOf w))
  | 3 => .ok (.jcmp (immOf w))
  | 4 => .ok (.jncmp (immOf w))
  | 5 => .ok (.jz (immOf w))
  | 6 => .ok (.jnz (immOf w))
  | 7 => .ok (.jmpa (immOf w))
  | _ => .error (.invalidOpcode w)

/-- Class 3 with `jm` = 1: `jc` selects the condition, the target is in `x[sr2]` (R81). -/
def decodeJumpReg (w : Word) : Except DecodeError Instr :=
  match (jcOf w).toNat with
  | 0 => .ok (.jmpr (sr2Of w))
  | 1 => .ok (.jcr (sr2Of w))
  | 2 => .ok (.jncr (sr2Of w))
  | 3 => .ok (.jcmpr (sr2Of w))
  | 4 => .ok (.jncmpr (sr2Of w))
  | 5 => .ok (.jzr (sr2Of w))
  | 6 => .ok (.jnzr (sr2Of w))
  | 7 => .ok (.jmpar (sr2Of w))
  | _ => .error (.invalidOpcode w)

/-- Class 12: `sop` selects (R82). -/
def decodeStack (w : Word) : Except DecodeError Instr :=
  match (sopOf w).toNat with
  | 0 => .ok (.push (sr1Of w))
  | 1 => .ok (.pop (drOf w))
  | 2 => .ok (.peek (drOf w))
  | 3 => .ok (.szero (drOf w))
  | _ => .error (.invalidOpcode w)

/-- The decoder: the class by `opc` (R78), then the class's own selector (R79 to R83). -/
def decode (w : Word) : Except DecodeError Instr :=
  match (opcOf w).toNat with
  | 0 => .ok .nop
  | 1 => decodeAlu w
  | 2 => decodeCompare w
  | 3 => if jmOf w = 0 then decodeJumpImm w else decodeJumpReg w
  | 4 => .ok (.loadAbs (drOf w) (immOf w))
  | 5 => .ok (.loadInd (drOf w) (sr2Of w))
  | 6 => .ok (.loadImm (drOf w) (immOf w))
  | 7 => .ok (.storeAbs (sr1Of w) (immOf w))
  | 8 => .ok (.storeInd (sr1Of w) (sr2Of w))
  | 9 => .ok (.mov (drOf w) (sr1Of w))
  | 10 => .ok .rsv10
  | 11 => .ok .rsv11
  | 12 => decodeStack w
  | 13 => if sOf w = 0 then .ok (.call (immOf w)) else .ok .ret
  | 14 => if sOf w = 0 then .ok (.syscall (immOf w)) else .ok .reti
  | 15 => .ok .halt
  | _ => .error (.invalidOpcode w)

/-- The instruction the decoder reads from a table row's bits: one 32-bit word (R70), so a row of at most 32 bits, and
the bits above `nbits` are 0. -/
def decodeTableWord (nbits w : Nat) : Option Instr :=
  if 0 < nbits ∧ nbits ≤ Config.xlen ∧ w < 2 ^ nbits then
    match decode (BitVec.ofNat _ w) with
    | .ok i => some i
    | .error _ => none
  else none

/-! ## The encoder: the canonical word, every ignored bit 0 (R89) -/

/-- Forms R and C. -/
def encodeR (opc : BitVec 4) (dr sr1 sr2 : Reg) (fn : BitVec 4) : Word :=
  put layout.opcLo opc ||| put layout.drLo dr ||| put layout.sr1Lo sr1 ||| put layout.sr2Lo sr2 ||| put layout.fnLo fn

/-- Form J. -/
def encodeJ (jc : BitVec 3) (imm24 : Imm) : Word :=
  put layout.opcLo (3 : BitVec 4) ||| put layout.jcLo jc ||| put layout.immLo imm24

/-- Form JR. -/
def encodeJR (jc : BitVec 3) (sr2 : Reg) : Word :=
  put layout.opcLo (3 : BitVec 4) ||| put layout.jmLo (1 : BitVec 1) ||| put layout.jcLo jc ||| put layout.sr2Lo sr2

/-- Form I, and form SA with `dr` = 0. -/
def encodeI (opc : BitVec 4) (dr : Reg) (imm24 : Imm) : Word :=
  put layout.opcLo opc ||| put layout.drLo dr ||| put layout.immLo imm24

/-- Form K. -/
def encodeK (dr sr1 : Reg) (sop : BitVec 2) : Word :=
  put layout.opcLo (12 : BitVec 4) ||| put layout.drLo dr ||| put layout.sr1Lo sr1 ||| put layout.sopLo sop

/-- Forms T and N. -/
def encodeT (opc : BitVec 4) (s : BitVec 1) (imm24 : Imm) : Word :=
  put layout.opcLo opc ||| put layout.sLo s ||| put layout.immLo imm24

/-- The canonical word of an instruction (R89). Forms D1, D2 and S2 are form R with the fields they do not read 0. -/
def encode : Instr → Word
  | .nop => encodeT 0 0 0
  | .add dr sr1 sr2 => encodeR 1 dr sr1 sr2 0
  | .sub dr sr1 sr2 => encodeR 1 dr sr1 sr2 1
  | .mul dr sr1 sr2 => encodeR 1 dr sr1 sr2 2
  | .neg dr sr1 => encodeR 1 dr sr1 0 3
  | .and dr sr1 sr2 => encodeR 1 dr sr1 sr2 4
  | .or dr sr1 sr2 => encodeR 1 dr sr1 sr2 5
  | .not dr sr1 => encodeR 1 dr sr1 0 6
  | .nand dr sr1 sr2 => encodeR 1 dr sr1 sr2 7
  | .xor dr sr1 sr2 => encodeR 1 dr sr1 sr2 8
  | .xnor dr sr1 sr2 => encodeR 1 dr sr1 sr2 9
  | .shl dr sr1 sr2 => encodeR 1 dr sr1 sr2 10
  | .shr dr sr1 sr2 => encodeR 1 dr sr1 sr2 11
  | .asr dr sr1 sr2 => encodeR 1 dr sr1 sr2 12
  | .rol dr sr1 sr2 => encodeR 1 dr sr1 sr2 13
  | .ror dr sr1 sr2 => encodeR 1 dr sr1 sr2 14
  | .zero dr => encodeR 1 dr 0 0 15
  | .cmpgt sr1 sr2 => encodeR 2 0 sr1 sr2 0
  | .cmpeq sr1 sr2 => encodeR 2 0 sr1 sr2 1
  | .cmplt sr1 sr2 => encodeR 2 0 sr1 sr2 2
  | .cmpge sr1 sr2 => encodeR 2 0 sr1 sr2 3
  | .cmple sr1 sr2 => encodeR 2 0 sr1 sr2 4
  | .cmpnv fn sr1 sr2 => encodeR 2 0 sr1 sr2 fn
  | .jmp imm24 => encodeJ 0 imm24
  | .jc imm24 => encodeJ 1 imm24
  | .jnc imm24 => encodeJ 2 imm24
  | .jcmp imm24 => encodeJ 3 imm24
  | .jncmp imm24 => encodeJ 4 imm24
  | .jz imm24 => encodeJ 5 imm24
  | .jnz imm24 => encodeJ 6 imm24
  | .jmpa imm24 => encodeJ 7 imm24
  | .jmpr sr2 => encodeJR 0 sr2
  | .jcr sr2 => encodeJR 1 sr2
  | .jncr sr2 => encodeJR 2 sr2
  | .jcmpr sr2 => encodeJR 3 sr2
  | .jncmpr sr2 => encodeJR 4 sr2
  | .jzr sr2 => encodeJR 5 sr2
  | .jnzr sr2 => encodeJR 6 sr2
  | .jmpar sr2 => encodeJR 7 sr2
  | .loadAbs dr imm24 => encodeI 4 dr imm24
  | .loadInd dr sr2 => encodeR 5 dr 0 sr2 0
  | .loadImm dr imm24 => encodeI 6 dr imm24
  | .storeAbs _ imm24 => encodeI 7 0 imm24
  | .storeInd sr1 sr2 => encodeR 8 0 sr1 sr2 0
  | .mov dr sr1 => encodeR 9 dr sr1 0 0
  | .rsv10 => encodeT 10 0 0
  | .rsv11 => encodeT 11 0 0
  | .push sr1 => encodeK 0 sr1 0
  | .pop dr => encodeK dr 0 1
  | .peek dr => encodeK dr 0 2
  | .szero dr => encodeK dr 0 3
  | .call imm24 => encodeT 13 0 imm24
  | .ret => encodeT 13 1 0
  | .syscall imm24 => encodeT 14 0 imm24
  | .reti => encodeT 14 1 0
  | .halt => encodeT 15 0 0

/-! ## The opcode table -/

/-- A row of spec/opcode_table.json: a word `w` is the row's when `w &&& mask = pattern`. -/
structure OpcodeRow where
  mnemonic : Mnemonic
  mask : Word
  pattern : Word
  deriving DecidableEq, Repr

/-- Whether a word is one of a row's words. -/
def OpcodeRow.matches (r : OpcodeRow) (w : Word) : Bool := w &&& r.mask == r.pattern

/-- The rows of spec/opcode_table.json of class 1. -/
def opcodeRowsAlu : List OpcodeRow :=
  [ ⟨.add, 0xF000000F, 0x10000000⟩
  , ⟨.sub, 0xF000000F, 0x10000001⟩
  , ⟨.mul, 0xF000000F, 0x10000002⟩
  , ⟨.neg, 0xF000000F, 0x10000003⟩
  , ⟨.and, 0xF000000F, 0x10000004⟩
  , ⟨.or, 0xF000000F, 0x10000005⟩
  , ⟨.not, 0xF000000F, 0x10000006⟩
  , ⟨.nand, 0xF000000F, 0x10000007⟩
  , ⟨.xor, 0xF000000F, 0x10000008⟩
  , ⟨.xnor, 0xF000000F, 0x10000009⟩
  , ⟨.shl, 0xF000000F, 0x1000000A⟩
  , ⟨.shr, 0xF000000F, 0x1000000B⟩
  , ⟨.asr, 0xF000000F, 0x1000000C⟩
  , ⟨.rol, 0xF000000F, 0x1000000D⟩
  , ⟨.ror, 0xF000000F, 0x1000000E⟩
  , ⟨.zero, 0xF000000F, 0x1000000F⟩ ]

/-- The rows of spec/opcode_table.json of class 2. -/
def opcodeRowsCompare : List OpcodeRow :=
  [ ⟨.cmpgt, 0xF000000F, 0x20000000⟩
  , ⟨.cmpeq, 0xF000000F, 0x20000001⟩
  , ⟨.cmplt, 0xF000000F, 0x20000002⟩
  , ⟨.cmpge, 0xF000000F, 0x20000003⟩
  , ⟨.cmple, 0xF000000F, 0x20000004⟩
  , ⟨.cmpnv, 0xF000000F, 0x20000005⟩
  , ⟨.cmpnv, 0xF000000E, 0x20000006⟩
  , ⟨.cmpnv, 0xF0000008, 0x20000008⟩ ]

/-- The rows of spec/opcode_table.json of class 3. -/
def opcodeRowsJump : List OpcodeRow :=
  [ ⟨.jmp, 0xFF000000, 0x30000000⟩
  , ⟨.jc, 0xFF000000, 0x31000000⟩
  , ⟨.jnc, 0xFF000000, 0x32000000⟩
  , ⟨.jcmp, 0xFF000000, 0x33000000⟩
  , ⟨.jncmp, 0xFF000000, 0x34000000⟩
  , ⟨.jz, 0xFF000000, 0x35000000⟩
  , ⟨.jnz, 0xFF000000, 0x36000000⟩
  , ⟨.jmpa, 0xFF000000, 0x37000000⟩
  , ⟨.jmpr, 0xFF000000, 0x38000000⟩
  , ⟨.jcr, 0xFF000000, 0x39000000⟩
  , ⟨.jncr, 0xFF000000, 0x3A000000⟩
  , ⟨.jcmpr, 0xFF000000, 0x3B000000⟩
  , ⟨.jncmpr, 0xFF000000, 0x3C000000⟩
  , ⟨.jzr, 0xFF000000, 0x3D000000⟩
  , ⟨.jnzr, 0xFF000000, 0x3E000000⟩
  , ⟨.jmpar, 0xFF000000, 0x3F000000⟩ ]

/-- The rows of spec/opcode_table.json of every other class. -/
def opcodeRowsOther : List OpcodeRow :=
  [ ⟨.nop, 0xF0000000, 0x00000000⟩
  , ⟨.loadAbs, 0xF0000000, 0x40000000⟩
  , ⟨.loadInd, 0xF0000000, 0x50000000⟩
  , ⟨.loadImm, 0xF0000000, 0x60000000⟩
  , ⟨.storeAbs, 0xF0000000, 0x70000000⟩
  , ⟨.storeInd, 0xF0000000, 0x80000000⟩
  , ⟨.mov, 0xF0000000, 0x90000000⟩
  , ⟨.rsv10, 0xF0000000, 0xA0000000⟩
  , ⟨.rsv11, 0xF0000000, 0xB0000000⟩
  , ⟨.push, 0xF0000003, 0xC0000000⟩
  , ⟨.pop, 0xF0000003, 0xC0000001⟩
  , ⟨.peek, 0xF0000003, 0xC0000002⟩
  , ⟨.szero, 0xF0000003, 0xC0000003⟩
  , ⟨.call, 0xF1000000, 0xD0000000⟩
  , ⟨.ret, 0xF1000000, 0xD1000000⟩
  , ⟨.syscall, 0xF1000000, 0xE0000000⟩
  , ⟨.reti, 0xF1000000, 0xE1000000⟩
  , ⟨.halt, 0xF0000000, 0xF0000000⟩ ]

/-- The 58 rows of spec/opcode_table.json. -/
def opcodeTable : List OpcodeRow := opcodeRowsAlu ++ opcodeRowsCompare ++ opcodeRowsJump ++ opcodeRowsOther

end Sys2Proof
end

