-- ==== Sys2Proof/Machine/Fetch.lean ====
section
/-! DEFINITION. The fetch unit and the accounting around an instruction (40_fetch_step.md rules R103 to R109). -/

namespace Sys2Proof.Machine

/-- The bounds check: `pc >= MEM_WORDS` (R103). -/
def pcOutOfRange (s : State) : Bool := decide (Config.memWords ≤ s.pc.toNat)

/-- The decode scratch of a fetched word (R72, R107). -/
def scratchOf (w : Word) : Scratch := { word := w, opc := opcOf w, dr := drOf w, sr1 := sr1Of w, sr2 := sr2Of w }

/-- The word at `pc`, through the memory interface (R104). -/
def fetchedWord (s : State) : Word := (memRead (wordOfPc s.pc) s).1

/-- The state the instruction runs in: the fetch recorded (R104), `pc` advanced (R105), `scratch` written (R107), and the
step's status `Ok` unless a HALT changes it (R110). -/
def afterFetch (s : State) : State :=
  setStatus .ok (setScratch (scratchOf (fetchedWord s)) (setPc (s.pc + 1) (memRead (wordOfPc s.pc) s).2))

/-- The cycles one step adds (R109). -/
def stepCost (w : Word) : Nat := Config.fetchCost + classCost (opcOf w)

/-- What follows the instruction's rule (R109). -/
def account (w : Word) (s : State) : State := addCycles (stepCost w) s

/-- A word, numbered as the opcode table numbers its bits, stored where the next step fetches. The fetch needs `pc` in
memory, so a `pc` beyond memory is masked; a `pc` in memory stays (log 11). -/
def placeFetchWord (s : State) (nbits w : Nat) : State :=
  pokeMem (maskAddr (wordOfPc s.pc)) (BitVec.ofNat _ (w % 2 ^ nbits))
    (setPc (pcOfWord (wordOfPc s.pc &&& Config.addrMask)) s)

end Sys2Proof.Machine
end

