-- ==== Sys2Proof/Machine/Step.lean ====
section
/-! DEFINITION. One step (40_fetch_step.md rule R114). -/

namespace Sys2Proof.Machine

/-- One step (R114): the bounds check, the fetch, the decoder, the instruction's rule, the accounting. The two interrupt
inputs change nothing (R101) and are arguments of `execute` in HostOps.lean. -/
def step (s : State) : Host.Outcome State Fault Refusal :=
  if pcOutOfRange s then .fault .pcOutOfBounds
  else
    match decode (fetchedWord s) with
    | .error (.invalidOpcode w) => .fault (.invalidOpcode w)
    | .ok i =>
      match exec i (afterFetch s) with
      | .next t => .next (account (fetchedWord s) t)
      | .fault r => .fault r
      | .refused r => .refused r

/-- `s` with an instruction's bits stored where `step` fetches its next instruction. -/
def State.withFetchWord (s : State) (nbits w : Nat) : State := placeFetchWord s nbits w

end Sys2Proof.Machine
end

