-- ==== Sys2Proof/Machine/Asm.lean ====
section
/-! DEFINITION. The assembler and disassembler of 30_encoding.md rules R87 and R90, over lines already cut into a mnemonic
and operands (log 23: splitting a text line, comments and labels are the assembler program's, R5). -/

namespace Sys2Proof.Machine

/-- An operand as R87 writes it, with its number not yet checked. -/
inductive Operand where
  /-- `Rn` -/
  | reg (n : Nat)
  /-- A number: a value, a target or an argument. -/
  | number (n : Nat)
  /-- `[addr]` -/
  | absolute (a : Nat)
  /-- `[Rn]` -/
  | indirect (n : Nat)
  deriving DecidableEq, Repr

/-- A line of assembly (R87). -/
structure AsmLine where
  mnemonic : Mnemonic
  operands : List Operand
  deriving DecidableEq, Repr

/-- Why the assembler refuses a line (R90). Each is safe: no word is produced. -/
inductive AsmError where
  /-- The operands are not those of the mnemonic's form (R87). -/
  | badOperands
  /-- A register that is not `R0` to `R15` (R90). -/
  | badRegister (n : Nat)
  /-- An immediate that does not fit in 24 bits (R87, R90). -/
  | badImmediate (n : Nat)
  /-- A STORE_ABS whose address does not carry the source register's index in bits 23 to 20 (R77, R90). -/
  | wrongSource
  deriving DecidableEq, Repr

/-- A register index (R90). -/
def asmReg (n : Nat) : Except AsmError Reg := if n < Config.nregs then .ok (BitVec.ofNat _ n) else .error (.badRegister n)

/-- An immediate (R87): "Every immediate must lie in 0 to 2^24 - 1". -/
def asmImm (n : Nat) : Except AsmError Imm :=
  if n < 2 ^ Config.immBits then .ok (BitVec.ofNat _ n) else .error (.badImmediate n)

/-! ## The operand forms of R87 -/

/-- No operand. -/
def asmNone (i : Instr) (l : List Operand) : Except AsmError Instr :=
  match l with
  | [] => .ok i
  | _ => .error .badOperands

/-- One register. -/
def asmOneReg (f : Reg → Instr) (l : List Operand) : Except AsmError Instr :=
  match l with
  | [.reg a] => return f (← asmReg a)
  | _ => .error .badOperands

/-- Two registers. -/
def asmTwoReg (f : Reg → Reg → Instr) (l : List Operand) : Except AsmError Instr :=
  match l with
  | [.reg a, .reg b] => return f (← asmReg a) (← asmReg b)
  | _ => .error .badOperands

/-- Three registers. -/
def asmThreeReg (f : Reg → Reg → Reg → Instr) (l : List Operand) : Except AsmError Instr :=
  match l with
  | [.reg a, .reg b, .reg c] => return f (← asmReg a) (← asmReg b) (← asmReg c)
  | _ => .error .badOperands

/-- A target or an argument. -/
def asmNumber (f : Imm → Instr) (l : List Operand) : Except AsmError Instr :=
  match l with
  | [.number n] => return f (← asmImm n)
  | _ => .error .badOperands

/-- `Rd, value`. -/
def asmRegNumber (f : Reg → Imm → Instr) (l : List Operand) : Except AsmError Instr :=
  match l with
  | [.reg a, .number n] => return f (← asmReg a) (← asmImm n)
  | _ => .error .badOperands

/-- `Rd, [addr]`. -/
def asmRegAbsolute (f : Reg → Imm → Instr) (l : List Operand) : Except AsmError Instr :=
  match l with
  | [.reg a, .absolute n] => return f (← asmReg a) (← asmImm n)
  | _ => .error .badOperands

/-- `Rd, [Rs2]`. -/
def asmRegIndirect (f : Reg → Reg → Instr) (l : List Operand) : Except AsmError Instr :=
  match l with
  | [.reg a, .indirect b] => return f (← asmReg a) (← asmReg b)
  | _ => .error .badOperands

/-- `[addr], Rs1`. -/
def asmAbsoluteReg (f : Reg → Imm → Instr) (l : List Operand) : Except AsmError Instr :=
  match l with
  | [.absolute n, .reg a] => return f (← asmReg a) (← asmImm n)
  | _ => .error .badOperands

/-- `[Rs2], Rs1`. -/
def asmIndirectReg (f : Reg → Reg → Instr) (l : List Operand) : Except AsmError Instr :=
  match l with
  | [.indirect b, .reg a] => return f (← asmReg a) (← asmReg b)
  | _ => .error .badOperands

/-- The instruction of a line, before the STORE_ABS check. CMPNV encodes `fn` = 5 (R87). -/
def asmInstr (line : AsmLine) : Except AsmError Instr :=
  match line.mnemonic with
  | .nop => asmNone .nop line.operands
  | .add => asmThreeReg .add line.operands
  | .sub => asmThreeReg .sub line.operands
  | .mul => asmThreeReg .mul line.operands
  | .neg => asmTwoReg .neg line.operands
  | .and => asmThreeReg .and line.operands
  | .or => asmThreeReg .or line.operands
  | .not => asmTwoReg .not line.operands
  | .nand => asmThreeReg .nand line.operands
  | .xor => asmThreeReg .xor line.operands
  | .xnor => asmThreeReg .xnor line.operands
  | .shl => asmThreeReg .shl line.operands
  | .shr => asmThreeReg .shr line.operands
  | .asr => asmThreeReg .asr line.operands
  | .rol => asmThreeReg .rol line.operands
  | .ror => asmThreeReg .ror line.operands
  | .zero => asmOneReg .zero line.operands
  | .cmpgt => asmTwoReg .cmpgt line.operands
  | .cmpeq => asmTwoReg .cmpeq line.operands
  | .cmplt => asmTwoReg .cmplt line.operands
  | .cmpge => asmTwoReg .cmpge line.operands
  | .cmple => asmTwoReg .cmple line.operands
  | .cmpnv => asmTwoReg (.cmpnv 5) line.operands
  | .jmp => asmNumber .jmp line.operands
  | .jc => asmNumber .jc line.operands
  | .jnc => asmNumber .jnc line.operands
  | .jcmp => asmNumber .jcmp line.operands
  | .jncmp => asmNumber .jncmp line.operands
  | .jz => asmNumber .jz line.operands
  | .jnz => asmNumber .jnz line.operands
  | .jmpa => asmNumber .jmpa line.operands
  | .jmpr => asmOneReg .jmpr line.operands
  | .jcr => asmOneReg .jcr line.operands
  | .jncr => asmOneReg .jncr line.operands
  | .jcmpr => asmOneReg .jcmpr line.operands
  | .jncmpr => asmOneReg .jncmpr line.operands
  | .jzr => asmOneReg .jzr line.operands
  | .jnzr => asmOneReg .jnzr line.operands
  | .jmpar => asmOneReg .jmpar line.operands
  | .loadAbs => asmRegAbsolute .loadAbs line.operands
  | .loadInd => asmRegIndirect .loadInd line.operands
  | .loadImm => asmRegNumber .loadImm line.operands
  | .storeAbs => asmAbsoluteReg .storeAbs line.operands
  | .storeInd => asmIndirectReg .storeInd line.operands
  | .mov => asmTwoReg .mov line.operands
  | .rsv10 => asmNone .rsv10 line.operands
  | .rsv11 => asmNone .rsv11 line.operands
  | .push => asmOneReg .push line.operands
  | .pop => asmOneReg .pop line.operands
  | .peek => asmOneReg .peek line.operands
  | .szero => asmOneReg .szero line.operands
  | .call => asmNumber .call line.operands
  | .ret => asmNone .ret line.operands
  | .syscall => asmNumber .syscall line.operands
  | .reti => asmNone .reti line.operands
  | .halt => asmNone .halt line.operands

/-- The assembler (R90): the canonical word of a line, or why it is refused. -/
def assemble (line : AsmLine) : Except AsmError Word :=
  match asmInstr line with
  | .error e => .error e
  | .ok i => if i.wellFormed then .ok (encode i) else .error .wrongSource

/-- The disassembler (R90): the mnemonic and the fields the instruction's form reads. -/
def disassemble : Instr → AsmLine
  | .nop => ⟨.nop, []⟩
  | .add dr sr1 sr2 => ⟨.add, [.reg dr.toNat, .reg sr1.toNat, .reg sr2.toNat]⟩
  | .sub dr sr1 sr2 => ⟨.sub, [.reg dr.toNat, .reg sr1.toNat, .reg sr2.toNat]⟩
  | .mul dr sr1 sr2 => ⟨.mul, [.reg dr.toNat, .reg sr1.toNat, .reg sr2.toNat]⟩
  | .neg dr sr1 => ⟨.neg, [.reg dr.toNat, .reg sr1.toNat]⟩
  | .and dr sr1 sr2 => ⟨.and, [.reg dr.toNat, .reg sr1.toNat, .reg sr2.toNat]⟩
  | .or dr sr1 sr2 => ⟨.or, [.reg dr.toNat, .reg sr1.toNat, .reg sr2.toNat]⟩
  | .not dr sr1 => ⟨.not, [.reg dr.toNat, .reg sr1.toNat]⟩
  | .nand dr sr1 sr2 => ⟨.nand, [.reg dr.toNat, .reg sr1.toNat, .reg sr2.toNat]⟩
  | .xor dr sr1 sr2 => ⟨.xor, [.reg dr.toNat, .reg sr1.toNat, .reg sr2.toNat]⟩
  | .xnor dr sr1 sr2 => ⟨.xnor, [.reg dr.toNat, .reg sr1.toNat, .reg sr2.toNat]⟩
  | .shl dr sr1 sr2 => ⟨.shl, [.reg dr.toNat, .reg sr1.toNat, .reg sr2.toNat]⟩
  | .shr dr sr1 sr2 => ⟨.shr, [.reg dr.toNat, .reg sr1.toNat, .reg sr2.toNat]⟩
  | .asr dr sr1 sr2 => ⟨.asr, [.reg dr.toNat, .reg sr1.toNat, .reg sr2.toNat]⟩
  | .rol dr sr1 sr2 => ⟨.rol, [.reg dr.toNat, .reg sr1.toNat, .reg sr2.toNat]⟩
  | .ror dr sr1 sr2 => ⟨.ror, [.reg dr.toNat, .reg sr1.toNat, .reg sr2.toNat]⟩
  | .zero dr => ⟨.zero, [.reg dr.toNat]⟩
  | .cmpgt sr1 sr2 => ⟨.cmpgt, [.reg sr1.toNat, .reg sr2.toNat]⟩
  | .cmpeq sr1 sr2 => ⟨.cmpeq, [.reg sr1.toNat, .reg sr2.toNat]⟩
  | .cmplt sr1 sr2 => ⟨.cmplt, [.reg sr1.toNat, .reg sr2.toNat]⟩
  | .cmpge sr1 sr2 => ⟨.cmpge, [.reg sr1.toNat, .reg sr2.toNat]⟩
  | .cmple sr1 sr2 => ⟨.cmple, [.reg sr1.toNat, .reg sr2.toNat]⟩
  | .cmpnv _ sr1 sr2 => ⟨.cmpnv, [.reg sr1.toNat, .reg sr2.toNat]⟩
  | .jmp imm24 => ⟨.jmp, [.number imm24.toNat]⟩
  | .jc imm24 => ⟨.jc, [.number imm24.toNat]⟩
  | .jnc imm24 => ⟨.jnc, [.number imm24.toNat]⟩
  | .jcmp imm24 => ⟨.jcmp, [.number imm24.toNat]⟩
  | .jncmp imm24 => ⟨.jncmp, [.number imm24.toNat]⟩
  | .jz imm24 => ⟨.jz, [.number imm24.toNat]⟩
  | .jnz imm24 => ⟨.jnz, [.number imm24.toNat]⟩
  | .jmpa imm24 => ⟨.jmpa, [.number imm24.toNat]⟩
  | .jmpr sr2 => ⟨.jmpr, [.reg sr2.toNat]⟩
  | .jcr sr2 => ⟨.jcr, [.reg sr2.toNat]⟩
  | .jncr sr2 => ⟨.jncr, [.reg sr2.toNat]⟩
  | .jcmpr sr2 => ⟨.jcmpr, [.reg sr2.toNat]⟩
  | .jncmpr sr2 => ⟨.jncmpr, [.reg sr2.toNat]⟩
  | .jzr sr2 => ⟨.jzr, [.reg sr2.toNat]⟩
  | .jnzr sr2 => ⟨.jnzr, [.reg sr2.toNat]⟩
  | .jmpar sr2 => ⟨.jmpar, [.reg sr2.toNat]⟩
  | .loadAbs dr imm24 => ⟨.loadAbs, [.reg dr.toNat, .absolute imm24.toNat]⟩
  | .loadInd dr sr2 => ⟨.loadInd, [.reg dr.toNat, .indirect sr2.toNat]⟩
  | .loadImm dr imm24 => ⟨.loadImm, [.reg dr.toNat, .number imm24.toNat]⟩
  | .storeAbs sr1 imm24 => ⟨.storeAbs, [.absolute imm24.toNat, .reg sr1.toNat]⟩
  | .storeInd sr1 sr2 => ⟨.storeInd, [.indirect sr2.toNat, .reg sr1.toNat]⟩
  | .mov dr sr1 => ⟨.mov, [.reg dr.toNat, .reg sr1.toNat]⟩
  | .rsv10 => ⟨.rsv10, []⟩
  | .rsv11 => ⟨.rsv11, []⟩
  | .push sr1 => ⟨.push, [.reg sr1.toNat]⟩
  | .pop dr => ⟨.pop, [.reg dr.toNat]⟩
  | .peek dr => ⟨.peek, [.reg dr.toNat]⟩
  | .szero dr => ⟨.szero, [.reg dr.toNat]⟩
  | .call imm24 => ⟨.call, [.number imm24.toNat]⟩
  | .ret => ⟨.ret, []⟩
  | .syscall imm24 => ⟨.syscall, [.number imm24.toNat]⟩
  | .reti => ⟨.reti, []⟩
  | .halt => ⟨.halt, []⟩

/-- The spelling of a mnemonic (R78 to R83, R87). -/
def mnemonicText : Mnemonic → String
  | .nop => "NOP"
  | .add => "ADD"
  | .sub => "SUB"
  | .mul => "MUL"
  | .neg => "NEG"
  | .and => "AND"
  | .or => "OR"
  | .not => "NOT"
  | .nand => "NAND"
  | .xor => "XOR"
  | .xnor => "XNOR"
  | .shl => "SHL"
  | .shr => "SHR"
  | .asr => "ASR"
  | .rol => "ROL"
  | .ror => "ROR"
  | .zero => "ZERO"
  | .cmpgt => "CMPGT"
  | .cmpeq => "CMPEQ"
  | .cmplt => "CMPLT"
  | .cmpge => "CMPGE"
  | .cmple => "CMPLE"
  | .cmpnv => "CMPNV"
  | .jmp => "JMP"
  | .jc => "JC"
  | .jnc => "JNC"
  | .jcmp => "JCMP"
  | .jncmp => "JNCMP"
  | .jz => "JZ"
  | .jnz => "JNZ"
  | .jmpa => "JMPA"
  | .jmpr => "JMPR"
  | .jcr => "JCR"
  | .jncr => "JNCR"
  | .jcmpr => "JCMPR"
  | .jncmpr => "JNCMPR"
  | .jzr => "JZR"
  | .jnzr => "JNZR"
  | .jmpar => "JMPAR"
  | .loadAbs => "LOAD_ABS"
  | .loadInd => "LOAD_IND"
  | .loadImm => "LOAD_IMM"
  | .storeAbs => "STORE_ABS"
  | .storeInd => "STORE_IND"
  | .mov => "MOV"
  | .rsv10 => "RSV10"
  | .rsv11 => "RSV11"
  | .push => "PUSH"
  | .pop => "POP"
  | .peek => "PEEK"
  | .szero => "SZERO"
  | .call => "CALL"
  | .ret => "RET"
  | .syscall => "SYSCALL"
  | .reti => "RETI"
  | .halt => "HALT"

/-- An operand as R87 writes it. -/
def operandText : Operand → String
  | .reg n => "R" ++ toString n
  | .number n => toString n
  | .absolute a => "[" ++ toString a ++ "]"
  | .indirect n => "[R" ++ toString n ++ "]"

/-- A line as R87 writes it. -/
def lineText (line : AsmLine) : String :=
  match line.operands with
  | [] => mnemonicText line.mnemonic
  | ops => mnemonicText line.mnemonic ++ " " ++ String.intercalate ", " (ops.map operandText)

end Sys2Proof.Machine
end

