-- ==== Sys2Proof/Machine/HostOps.lean ====
section
/-! DEFINITION. The operations the core offers its host (40_fetch_step.md rule R100, 60_exceptions.md rules R270 to R276,
70_reset_and_hazards.md): construct, step with its two inputs, reset, restart, introspect, and the end of a run. -/

namespace Sys2Proof.Machine

/-- The state construction builds from an image (R280), with the filler numbered `epoch` outside it. -/
def construct (image : List Word) (epoch : Nat) : State :=
  { State.reset with mem := Memory.ofImage 0 image, image := image, epoch := epoch }

/-- The image is "shorter than memory capacity" (R280, R281). -/
def imageFits (image : List Word) : Bool := decide (image.length < Config.memWords)

/-- Reset (R282, R283): `x`, `pc`, `sp` and the flags become zero; nothing else changes, `PRIV` and `reti` among it. -/
def hostReset (s : State) : State :=
  { s with regs := Vector.replicate Config.nregs 0, pc := 0, sp := 0, carry := false, zero := false, comparison := false }

/-- Restart (R284): construction again with the same image and a fresh filler (D23). -/
def hostRestart (s : State) : State := construct s.image (s.epoch + 1)

/-- The step with its two inputs, which change nothing (R101, R260; D18, log 12). -/
def execute (_interruptFlag : Bool) (_interruptNumber : BitVec Config.intNumBits) (s : State) :
    Host.Outcome State Fault Refusal :=
  step s

/-- What introspection shows (R270). -/
structure Snapshot where
  regs : Vector Word Config.nregs
  pc : Pc
  sp : Word
  carry : Bool
  zero : Bool
  comparison : Bool
  priv : Bool
  reti : Word
  lastAccess : Option (Addr × Word)
  scratch : Scratch
  cycles : Nat
  deriving DecidableEq, Repr

/-- Introspection (R270); it changes no state. -/
def introspect (s : State) : Snapshot :=
  { regs := s.regs, pc := s.pc, sp := s.sp, carry := s.carry, zero := s.zero, comparison := s.comparison,
    priv := s.priv, reti := s.reti, lastAccess := s.lastAccess, scratch := s.scratch, cycles := s.cycles }

/-- An operation of the host with its inputs (R100, R271). The logging flag and the target clock speed change no state of
the core (R100; log 24). -/
inductive HostOp where
  | construct (image : List Word) (logging : Bool) (clockSpeed : Nat)
  | step (interruptFlag : Bool) (interruptNumber : BitVec Config.intNumBits)
  | reset
  | restart
  | introspect

/-- What an operation does to the core (R100). A construction makes a new core with a fresh filler. -/
def hostOp (op : HostOp) (s : State) : Host.Outcome State Fault Refusal :=
  match op with
  | .construct image _ _ => if imageFits image then .next (construct image (s.epoch + 1)) else .refused .imageTooLong
  | .step flag number => execute flag number s
  | .reset => .next (hostReset s)
  | .restart => .next (hostRestart s)
  | .introspect => .next s

/-- The status a step returns to the host (R102). -/
def statusOf (o : Host.Outcome State Fault Refusal) : Option Status :=
  match o with
  | .next t => some t.status
  | .fault .pcOutOfBounds => some .pcOutOfBounds
  | .fault (.invalidOpcode _) => some .invalidOpcode
  | .refused _ => none

/-- The end of a run (R276; D24, log 22): the state after the first step that returns `Halt` or `PcOutOfBounds`, with
that status, looked for in at most `fuel` steps. A `PcOutOfBounds` step changes nothing (R103). -/
def runToEnd (fuel : Nat) (s : State) : Option (Status × State) :=
  match fuel with
  | 0 => none
  | k + 1 =>
    match step s with
    | .next t => if t.status = .halt then some (.halt, t) else runToEnd k t
    | .fault .pcOutOfBounds => some (.pcOutOfBounds, s)
    | .fault (.invalidOpcode _) => none
    | .refused _ => none

end Sys2Proof.Machine
end

