-- ==== Sys2Proof/Safety.lean ====
section
/-! DEFINITION. The terms claims use: when a state can step, what a frame is, what the program can see, and the invariants
of a run. -/

namespace Sys2Proof.Machine

/-- A state whose next step executes an instruction (R103): `pc < 2^24`. -/
def InMemory (s : State) : Prop := s.pc.toNat < Config.memWords

/-- What a step or a meaning may change; every other part of the state is kept (`Frame`). -/
structure Touched where
  dest : Option Reg := none
  pc : Bool := false
  sp : Bool := false
  carry : Bool := false
  zero : Bool := false
  comparison : Bool := false
  priv : Bool := false
  reti : Bool := false
  stored : List Addr := []
  lastAccess : Bool := false
  status : Bool := false

/-- `t` keeps everything of `s` but what `k` names: every other general register, every word of memory outside
`k.stored`, and always `scratch`, `cycles`, `image` and `epoch`. -/
def Frame (k : Touched) (s t : State) : Prop :=
  (∀ r : Reg, k.dest ≠ some r → getReg t r = getReg s r) ∧
  (k.pc = false → t.pc = s.pc) ∧ (k.sp = false → t.sp = s.sp) ∧
  (k.carry = false → t.carry = s.carry) ∧ (k.zero = false → t.zero = s.zero) ∧
  (k.comparison = false → t.comparison = s.comparison) ∧
  (k.priv = false → t.priv = s.priv) ∧ (k.reti = false → t.reti = s.reti) ∧
  (∀ a : Addr, a ∉ k.stored → peek t a = peek s a) ∧
  (k.lastAccess = false → t.lastAccess = s.lastAccess) ∧ (k.status = false → t.status = s.status) ∧
  t.scratch = s.scratch ∧ t.cycles = s.cycles ∧ t.image = s.image ∧ t.epoch = s.epoch

/-- Two states a program cannot tell apart: they agree on everything R20 calls observable by a program, and may differ in
what only the host sees (`PRIV`, `lastAccess`, `scratch`, `cycles`, and the model's `status` and `image`). -/
def SameToProgram (s t : State) : Prop :=
  s.regs = t.regs ∧ s.pc = t.pc ∧ s.sp = t.sp ∧ s.carry = t.carry ∧ s.zero = t.zero ∧ s.comparison = t.comparison ∧
  s.reti = t.reti ∧ s.mem = t.mem ∧ s.epoch = t.epoch

/-- The memory is in its canonical form. -/
def MemoryCanonical (s : State) : Prop := Memory.wf s.mem = true

/-- The last-access pair tells what memory holds (R52, R53): the recorded address still reads as the recorded value. -/
def LastAccessCurrent (s : State) : Prop := ∀ a v, s.lastAccess = some (a, v) → peek s a = v

/-- The saved return address is 0 or an advanced pc (R25, R35, R240), so it is at most 2^24. -/
def RetiBounded (s : State) : Prop := s.reti.toNat ≤ Config.memWords

/-- The scratch is the generic decode of its word (R37, R72, R107). -/
def ScratchDecoded (s : State) : Prop := s.scratch = scratchOf s.scratch.word

/-- The status is that of the latest word (R110): `Halt` after a class-15 word, else `Ok`. -/
def StatusOfScratch (s : State) : Prop := s.status = if s.scratch.opc = 15 then Status.halt else Status.ok

/-- The image kept for a restart is "shorter than memory capacity" (R280, R281, R284). -/
def ImageFits (s : State) : Prop := imageFits s.image = true

/-- What every run keeps. -/
structure RunInvariant (s : State) : Prop where
  memory : MemoryCanonical s
  lastAccess : LastAccessCurrent s
  reti : RetiBounded s
  scratch : ScratchDecoded s
  status : StatusOfScratch s
  image : ImageFits s

end Sys2Proof.Machine
end

