-- ==== Sys2Proof/Certificates/Slice0/Obligations.lean ====
section
/-! DEFINITION. The statements for the provers, with the spec's own tables they are stated in: the fields of a word by their
bit positions (R72, R73), which bits a form reads (R76), and the tables of rules R23, R54 and R112. -/

namespace Sys2Proof.Claims

open Sys2Proof.Machine

/-! ## The fields of a word, by their bits (R9, R72, R73) -/

def opcBits (w : Word) : BitVec 4 := w.extractLsb' 28 4
def drBits (w : Word) : Reg := w.extractLsb' 24 4
def sr1Bits (w : Word) : Reg := w.extractLsb' 20 4
def sr2Bits (w : Word) : Reg := w.extractLsb' 16 4
def immBits (w : Word) : Imm := w.extractLsb' 0 24
def fnBits (w : Word) : BitVec 4 := w.extractLsb' 0 4
def sopBits (w : Word) : BitVec 2 := w.extractLsb' 0 2
def jmBit (w : Word) : Bool := w.getLsbD 27
def jcBits (w : Word) : BitVec 3 := w.extractLsb' 24 3
def sBit (w : Word) : Bool := w.getLsbD 24

/-- The word a step of `s` fetches (R104), where `pc` is in memory. -/
def wordAt (s : State) : Word := peek s (s.pc.setWidth 24)

/-- A word of class 12 with a given `sop` (R82). -/
def IsStack (w : Word) (sop : BitVec 2) : Prop := opcBits w = 12 ∧ sopBits w = sop

/-- A word of class 13 or 14 with a given `s` (R83). -/
def IsSelect (w : Word) (opc : BitVec 4) (s : Bool) : Prop := opcBits w = opc ∧ sBit w = s

/-- The bits a mnemonic's form does not ignore (R76). -/
def usedBits : Mnemonic → Word
  | .nop | .rsv10 | .rsv11 | .halt => 0xF0000000
  | .add | .sub | .mul | .and | .or | .nand | .xor | .xnor | .shl | .shr | .asr | .rol | .ror => 0xFFFF000F
  | .neg | .not => 0xFFF0000F
  | .zero => 0xFF00000F
  | .cmpgt | .cmpeq | .cmplt | .cmpge | .cmple | .cmpnv => 0xF0FF000F
  | .jmp | .jc | .jnc | .jcmp | .jncmp | .jz | .jnz | .jmpa => 0xFFFFFFFF
  | .jmpr | .jcr | .jncr | .jcmpr | .jncmpr | .jzr | .jnzr | .jmpar => 0xFF0F0000
  | .loadAbs | .loadImm => 0xFFFFFFFF
  | .loadInd => 0xFF0F0000
  | .storeAbs => 0xF0FFFFFF
  | .storeInd => 0xF0FF0000
  | .mov => 0xFFF00000
  | .push => 0xF0F00003
  | .pop | .peek | .szero => 0xFF000003
  | .call | .syscall => 0xF1FFFFFF
  | .ret | .reti => 0xF1000000

/-- The flags word as a number (R12): `carry | zero<<1 | comparison<<2`. -/
def packedFlags (s : State) : Word :=
  BitVec.ofNat 32 (s.carry.toNat + 2 * s.zero.toNat + 4 * s.comparison.toNat)

/-- The three flags of `t` are bits 0, 1 and 2 of `w` (R12). -/
def FlagsFrom (w : Word) (t : State) : Prop :=
  t.carry = w.getLsbD 0 ∧ t.zero = w.getLsbD 1 ∧ t.comparison = w.getLsbD 2

/-! ## The spec's tables over a fetched word -/

/-- The condition `jc` selects (R81). -/
def condOf (jc : BitVec 3) (s : State) : Bool :=
  match jc.toNat with
  | 1 => s.carry
  | 2 => !s.carry
  | 3 => s.comparison
  | 4 => !s.comparison
  | 5 => s.zero
  | 6 => !s.zero
  | _ => true

/-- The general register an instruction word writes (R23). -/
def declaredDest (w : Word) : Option Reg :=
  match (opcBits w).toNat with
  | 1 | 4 | 5 | 6 | 9 => some (drBits w)
  | 12 => if sopBits w = 0 then none else some (drBits w)
  | _ => none

/-- The addresses an instruction word stores to (R54), in a state before the step. -/
def storedAddrs (s : State) (w : Word) : List Addr :=
  match (opcBits w).toNat with
  | 7 => [immBits w]
  | 8 => [maskAddr (getReg s (sr2Bits w))]
  | 12 => if sopBits w = 0 then [maskAddr (s.sp - 1)] else []
  | 13 => if sBit w then [] else [maskAddr (s.sp - 1), maskAddr (s.sp - 2)]
  | 14 => if sBit w then [] else [maskAddr (s.sp - 1), 0x41]
  | _ => []

/-- The address of a step's last access (R54), in a state before the step. -/
def lastAddr (s : State) (w : Word) : Addr :=
  match (opcBits w).toNat with
  | 4 | 7 => immBits w
  | 5 | 8 => maskAddr (getReg s (sr2Bits w))
  | 12 => if sopBits w = 0 then maskAddr (s.sp - 1) else if sopBits w = 3 then s.pc.setWidth 24 else maskAddr s.sp
  | 13 => if sBit w then maskAddr (s.sp + 1) else maskAddr (s.sp - 2)
  | 14 => if sBit w then maskAddr s.sp else 0x41
  | _ => s.pc.setWidth 24

/-- The word SYSCALL reads from the vector cell: the pushed flags word where the push lands on it (R240). -/
def vectorWord (s : State) : Word :=
  if maskAddr (s.sp - 1) = 0x40 then packedFlags s else peek s 0x40

/-- The word an instruction word stores at an address, if it stores there (R54 and the rules of the storing instructions),
in a state before the step. A later store of the same instruction to the same address wins. -/
def storedWord (s : State) (w : Word) (a : Addr) : Option Word :=
  match (opcBits w).toNat with
  | 7 => if a = immBits w then some (getReg s (sr1Bits w)) else none
  | 8 => if a = maskAddr (getReg s (sr2Bits w)) then some (getReg s (sr1Bits w)) else none
  | 12 => if sopBits w = 0 ∧ a = maskAddr (s.sp - 1) then some (getReg s (sr1Bits w)) else none
  | 13 =>
    if sBit w then none
    else if a = maskAddr (s.sp - 2) then some (packedFlags s)
    else if a = maskAddr (s.sp - 1) then some ((s.pc + 1) &&& 0xFFFFFF)
    else none
  | 14 =>
    if sBit w then none
    else if a = 0x41 then some ((immBits w).setWidth 32)
    else if a = maskAddr (s.sp - 1) then some (packedFlags s)
    else none
  | _ => none

/-- Exactly `n` steps lead from `s` to `u`, and none of them returns `Halt` (R276). -/
def GoesOn : Nat → State → State → Prop
  | 0, s, u => u = s
  | n + 1, s, u => ∃ t, step s = .next t ∧ t.status ≠ .halt ∧ GoesOn n t u

/-- The next `pc` (R112), from the state before the step and the fetched word. -/
def nextPc (s : State) (w : Word) : Pc :=
  match (opcBits w).toNat with
  | 3 =>
    if condOf (jcBits w) s then
      if jmBit w then getReg s (sr2Bits w) &&& 0xFFFFFF else (immBits w).setWidth 32
    else s.pc + 1
  | 13 => if sBit w then peek s (maskAddr (s.sp + 1)) else (immBits w).setWidth 32
  | 14 => if sBit w then s.reti else vectorWord s
  | _ => s.pc + 1

/-- What a step adds to `sp` (R28). -/
def spChange (w : Word) : Word :=
  match (opcBits w).toNat with
  | 12 => if sopBits w = 0 then -1 else if sopBits w = 1 then 1 else 0
  | 13 => if sBit w then 2 else -2
  | 14 => if sBit w then 1 else -1
  | _ => 0

/-- What an assembly operand's number must satisfy (R87, R90). -/
def OperandFits : Operand → Prop
  | .reg n | .indirect n => n < 16
  | .number n | .absolute n => n < 2 ^ 24

/-- A class-1 instruction that writes only `x[dr]` and `Z` completes, with `x[dr]` a value `r` of the operands and `Z`
telling whether it is zero (R140). -/
def AluCompletes (i : Instr) (dr : Reg) (r : State → Word) : Prop :=
  ∀ s : State, ∃ t, exec i s = .next t ∧ getReg t dr = r s ∧ (t.zero = true ↔ r s = 0) ∧
    Frame { dest := some dr, zero := true } s t

/-- A class-1 instruction completes, each bit of its result a function of the operands' bits, and `Z` by the result
(R140). -/
def BitwiseCompletes (i : Instr) (dr sr1 sr2 : Reg) (f : Bool → Bool → Bool) : Prop :=
  ∀ s : State, ∃ t, exec i s = .next t ∧
    (∀ k, k < 32 → (getReg t dr).getLsbD k = f ((getReg s sr1).getLsbD k) ((getReg s sr2).getLsbD k)) ∧
    (t.zero = true ↔ getReg t dr = 0) ∧ Frame { dest := some dr, zero := true } s t

/-- The test of a compare's `fn` on two unsigned values (R171 to R176). -/
def relationOf (fn : BitVec 4) (a b : Nat) : Prop :=
  match fn.toNat with
  | 0 => a > b
  | 1 => a = b
  | 2 => a < b
  | 3 => a ≥ b
  | 4 => a ≤ b
  | _ => False

end Sys2Proof.Claims

open Sys2Proof Sys2Proof.Machine Sys2Proof.Claims

/-! ## Encoding -/

/-- R89, and the encodings of 30_encoding.md: words written out from the spec decode to the instructions they stand for. -/
def Obligations.SampleWordsDecode : Prop :=
  decode 0x10120000 = .ok (.add 0 1 2) ∧ decode 0x61000005 = .ok (.loadImm 1 5) ∧ decode 0xF0000000 = .ok .halt ∧
  decode 0x2012000F = .ok (.cmpnv 15 1 2) ∧ decode 0x35000100 = .ok (.jz 0x100) ∧
  decode 0x3D040000 = .ok (.jzr 4) ∧ decode 0x70100010 = .ok (.storeAbs 1 0x100010) ∧
  decode 0xC4000001 = .ok (.pop 4) ∧ decode 0xD1000000 = .ok .ret ∧ decode 0xE0000007 = .ok (.syscall 7) ∧
  decode 0xA1234567 = .ok .rsv10

/-- R89: the canonical word of a well-formed instruction decodes to it, whatever its operands. -/
def Obligations.EncodeThenDecode : Prop :=
  ∀ i : Instr, i.wellFormed = true → decode (encode i) = .ok i

/-- R85: every word decodes, and to a well-formed instruction, so STORE_ABS words satisfy R77. -/
def Obligations.EveryWordDecodes : Prop :=
  ∀ w : Word, ∃ i, decode w = .ok i ∧ i.wellFormed = true

/-- R76, R89: the canonical word of a decoded instruction is the word with the bits its form ignores set to 0. -/
def Obligations.ReencodingClearsIgnoredBits : Prop :=
  ∀ (w : Word) (i : Instr), decode w = .ok i → encode i = w &&& usedBits i.mnemonic

/-- R75: two words that differ only in ignored bits decode to the same instruction. -/
def Obligations.IgnoredBitsHaveNoEffect : Prop :=
  ∀ (v w : Word) (i : Instr), decode w = .ok i → v &&& usedBits i.mnemonic = w &&& usedBits i.mnemonic →
    decode v = .ok i

/-- spec/opcode_table.json: each word matches exactly one row, and decodes to an instruction of that row's mnemonic. -/
def Obligations.DecoderFollowsOpcodeTable : Prop :=
  ∀ w : Word, ∃ row ∈ opcodeTable, row.matches w = true ∧
    (∀ other ∈ opcodeTable, other.matches w = true → other = row) ∧
    ∃ i, decode w = .ok i ∧ i.mnemonic = row.mnemonic

/-- R87, R90: what the disassembler prints assembles to the canonical word; CMPNV is written with `fn` = 5. -/
def Obligations.DisassemblyAssembles : Prop :=
  ∀ i : Instr, i.wellFormed = true → (∀ fn sr1 sr2, i = .cmpnv fn sr1 sr2 → fn = 5) →
    assemble (disassemble i) = .ok (encode i)

/-- R90: a line the assembler accepts has registers `R0` to `R15`, immediates of 24 bits, and, for STORE_ABS, the source
register's index in bits 23 to 20 of the address. -/
def Obligations.AssembledLinesFit : Prop :=
  ∀ (line : AsmLine) (w : Word), assemble line = .ok w →
    (∀ o ∈ line.operands, OperandFits o) ∧
    (line.mnemonic = .storeAbs → ∃ a n, line.operands = [.absolute a, .reg n] ∧ n = a / 2 ^ 20)

/-! ## Memory -/

/-- R52, R53, R60: a read gives the latest write to the same masked address, else what it gave before. Both record the
masked address with the value; a write changes that one word and nothing else, and a read changes no word. -/
def Obligations.ReadAfterWrite : Prop :=
  ∀ (s : State) (a b v : Word),
    (memRead b (memWrite a v s)).1 = (if a.toNat % 2 ^ 24 = b.toNat % 2 ^ 24 then v else (memRead b s).1) ∧
    (memWrite a v s).lastAccess = some (a.setWidth 24, v) ∧
    Frame { stored := [a.setWidth 24], lastAccess := true } s (memWrite a v s) ∧
    (memRead b s).2.lastAccess = some (b.setWidth 24, (memRead b s).1) ∧
    Frame { lastAccess := true } s (memRead b s).2

/-- R51: addresses that differ by a multiple of 2^24 name the same word, for writes and for reads. -/
def Obligations.AddressesWrap : Prop :=
  ∀ (s : State) (k j v : Word),
    memWrite (k + j * 16777216) v s = memWrite k v s ∧ memRead (k + j * 16777216) s = memRead k s

/-! ## Invariants -/

/-- The invariant of a run holds at reset, and after every construction from an image that fits (R39, R280). -/
def Obligations.RunInvariantAtStart : Prop :=
  RunInvariant State.reset ∧
    ∀ (image : List Word) (epoch : Nat), image.length < 2 ^ 24 → RunInvariant (construct image epoch)

/-- Every step keeps the memory in its canonical form. -/
def Obligations.StepKeepsMemoryCanonical : Prop :=
  ∀ s t : State, MemoryCanonical s → step s = .next t → MemoryCanonical t

/-- R25, R35: `reti` stays at most 2^24, because a step only ever saves an advanced pc in it. -/
def Obligations.StepKeepsRetiBounded : Prop :=
  ∀ s t : State, RetiBounded s → step s = .next t → RetiBounded t

/-- R100: every operation of the host, steps among them, keeps the invariant of a run. -/
def Obligations.HostOperationsKeepRunInvariant : Prop :=
  ∀ (op : HostOp) (s t : State), RunInvariant s → hostOp op s = .next t → RunInvariant t

/-! ## The step -/

/-- R104 to R109, R114: a step whose word decodes to `i` is `exec i` on the fetched state, with the cycles added. Where the
model keeps the step's status is its own choice (logs 4 and 21). -/
def Obligations.StepRunsDecodedInstruction : Prop :=
  ∀ (s : State) (i : Instr), s.pc.toNat < 2 ^ 24 → decode (wordAt s) = .ok i →
    step s =
      match exec i { s with pc := s.pc + 1, lastAccess := some (s.pc.setWidth 24, wordAt s),
                            scratch := ⟨wordAt s, opcBits (wordAt s), drBits (wordAt s), sr1Bits (wordAt s),
                              sr2Bits (wordAt s)⟩,
                            status := .ok } with
      | .next t => .next { t with cycles := t.cycles + (2 + classCost (opcBits (wordAt s))) }
      | .fault r => .fault r
      | .refused r => .refused r

/-- R103: exactly a `pc` of 2^24 or more ends the step with `PcOutOfBounds`. That the status is a fault, which has no next
state and so no mutation, is the model's choice of form (log 5). -/
def Obligations.OutOfBoundsExactlyBeyondMemory : Prop :=
  ∀ s : State, step s = .fault .pcOutOfBounds ↔ 2 ^ 24 ≤ s.pc.toNat

/-- R51, R85: a step whose `pc` is in memory always answers a next state, whatever the word and the state. -/
def Obligations.StepInMemoryCompletes : Prop :=
  ∀ s : State, s.pc.toNat < 2 ^ 24 → ∃ t, step s = .next t

/-- R253: no step returns `InvalidOpcode`, and the model refuses no step. -/
def Obligations.NoInvalidOpcode : Prop :=
  ∀ s : State, (∀ w, step s ≠ .fault (.invalidOpcode w)) ∧ ∀ r, step s ≠ .refused r

/-- R110: the status is `Halt` if `opc` is 15 and `Ok` for every other class. -/
def Obligations.StatusByClass : Prop :=
  ∀ s t : State, step s = .next t →
    statusOf (step s) = some (if opcBits (wordAt s) = 15 then .halt else .ok) ∧ statusOf (step s) = some t.status

/-- R109, R115: a step adds 2 and its class's cost, which is 1 for classes 0, 1, 6 and 15, 0 for 10 and 11, and for every
other class the same value in 1 to 3 in every step. -/
def Obligations.CyclesByClass : Prop :=
  ∃ cost : BitVec 4 → Nat,
    cost 0 = 1 ∧ cost 1 = 1 ∧ cost 6 = 1 ∧ cost 15 = 1 ∧ cost 10 = 0 ∧ cost 11 = 0 ∧
    (∀ c, c ≠ 10 → c ≠ 11 → 1 ≤ cost c ∧ cost c ≤ 3) ∧
    ∀ s t : State, step s = .next t → t.cycles = s.cycles + 2 + cost (opcBits (wordAt s))

/-- R112: the next `pc`, for every instruction. -/
def Obligations.NextPcSelection : Prop :=
  ∀ s t : State, step s = .next t → t.pc = nextPc s (wordAt s)

/-- R251: a `pc` beyond memory comes only from RET, SYSCALL or RETI, or by the fetch at the last word, which leaves 2^24. -/
def Obligations.SourcesOfOutOfBounds : Prop :=
  ∀ s t : State, step s = .next t → 2 ^ 24 ≤ t.pc.toNat →
    IsSelect (wordAt s) 13 true ∨ opcBits (wordAt s) = 14 ∨ (s.pc.toNat = 2 ^ 24 - 1 ∧ t.pc.toNat = 2 ^ 24)

/-- R107, R37: every step that fetches writes the raw word and its four generic fields to the scratch. -/
def Obligations.ScratchAfterStep : Prop :=
  ∀ s t : State, step s = .next t →
    t.scratch = ⟨wordAt s, opcBits (wordAt s), drBits (wordAt s), sr1Bits (wordAt s), sr2Bits (wordAt s)⟩

/-- R53, R54: the last access of a step, by its instruction, and that it holds the value memory has there. -/
def Obligations.LastAccessOfStep : Prop :=
  ∀ s t : State, step s = .next t →
    t.lastAccess = some (lastAddr s (wordAt s), peek t (lastAddr s (wordAt s)))

/-! ## Whole-machine rules -/

/-- R23: every general register other than the declared destination is unchanged by a step. -/
def Obligations.StepRegisterFrame : Prop :=
  ∀ (s t : State) (r : Reg), step s = .next t → declaredDest (wordAt s) ≠ some r → getReg t r = getReg s r

/-- R54: a step changes no word of memory but those its instruction stores to. -/
def Obligations.StepMemoryFrame : Prop :=
  ∀ (s t : State) (a : Addr), step s = .next t → a ∉ storedAddrs s (wordAt s) → peek t a = peek s a

/-- R30, R31, R32, with the values of R140, R141 and R170: what class 1, ADD and class 2 write to `Z`, `C` and `CMP`;
that RET and RETI unpack the word at `sp`; and that no other instruction writes a flag. -/
def Obligations.FlagWriters : Prop :=
  ∀ s t : State, step s = .next t →
    (opcBits (wordAt s) = 1 → (t.zero = true ↔ getReg t (drBits (wordAt s)) = 0)) ∧
    (opcBits (wordAt s) = 1 → fnBits (wordAt s) = 0 →
      (t.carry = true ↔
        (getReg t (drBits (wordAt s))).toNat < (getReg s (sr1Bits (wordAt s))).toNat ∨
          (getReg t (drBits (wordAt s))).toNat < (getReg s (sr2Bits (wordAt s))).toNat)) ∧
    (opcBits (wordAt s) = 2 →
      (t.comparison = true ↔
        relationOf (fnBits (wordAt s)) (getReg s (sr1Bits (wordAt s))).toNat (getReg s (sr2Bits (wordAt s))).toNat)) ∧
    (IsSelect (wordAt s) 13 true ∨ IsSelect (wordAt s) 14 true → FlagsFrom (peek s (maskAddr s.sp)) t) ∧
    (¬ IsSelect (wordAt s) 13 true → ¬ IsSelect (wordAt s) 14 true →
      (opcBits (wordAt s) ≠ 1 → t.zero = s.zero) ∧
      (¬ (opcBits (wordAt s) = 1 ∧ fnBits (wordAt s) = 0) → t.carry = s.carry) ∧
      (opcBits (wordAt s) ≠ 2 → t.comparison = s.comparison))

/-- R34, R35, R261: SYSCALL sets `PRIV` and saves the advanced pc in `reti`, unmasked; RETI clears `PRIV`; no other
instruction writes either, and neither does reset. -/
def Obligations.TrapRegisterWriters : Prop :=
  (∀ s t : State, step s = .next t →
    (IsSelect (wordAt s) 14 false → t.priv = true ∧ t.reti = s.pc + 1) ∧
    (IsSelect (wordAt s) 14 true → t.priv = false ∧ t.reti = s.reti) ∧
    (opcBits (wordAt s) ≠ 14 → t.priv = s.priv ∧ t.reti = s.reti)) ∧
  ∀ s : State, (hostReset s).priv = s.priv ∧ (hostReset s).reti = s.reti

/-- R28: how much each instruction moves `sp`, and that only PUSH, POP, CALL, RET, SYSCALL and RETI move it. -/
def Obligations.StackPointerMoves : Prop :=
  ∀ s t : State, step s = .next t → t.sp = s.sp + spChange (wordAt s)

/-- R34, R261: the privilege bit gates nothing: a step with another `PRIV` does the same and leaves the same state but
for `PRIV` itself, which only class 14 sets. -/
def Obligations.PrivilegeGatesNothing : Prop :=
  ∀ (s t : State) (b : Bool), step s = .next t →
    step { s with priv := b } = .next { t with priv := if opcBits (wordAt s) = 14 then t.priv else b }

/-- R20, R116: what only the host observes (`PRIV`, `lastAccess`, `scratch`, `cycles`) never reaches what a program
observes. -/
def Obligations.HostOnlyStateIsNotRead : Prop :=
  ∀ s s' t : State, SameToProgram s s' → step s = .next t → ∃ t', step s' = .next t' ∧ SameToProgram t t'

/-- R63: a word stored by any storing instruction (STORE_ABS, STORE_IND, PUSH, CALL, SYSCALL) is in memory after the step,
and the very next step fetches it where its `pc` is that address. -/
def Obligations.StoreSeenByNextFetch : Prop :=
  ∀ s t : State, step s = .next t →
    (∀ a : Addr, a ∈ storedAddrs s (wordAt s) ↔ ∃ v, storedWord s (wordAt s) a = some v) ∧
    (∀ (a : Addr) (v : Word), storedWord s (wordAt s) a = some v → peek t a = v) ∧
    ∀ (u : State) (v : Word), storedWord s (wordAt s) (t.pc.setWidth 24) = some v → step t = .next u →
      u.scratch.word = v

/-! ## Classes 0, 10, 11 and 15 -/

/-- R130 to R133: every word of classes 0, 10, 11 and 15 is its class's instruction, and the four do nothing. HALT writes the
model's own `status` field, where the spec's step returns `Halt` by R110 (logs 4 and 21, the model's choice). -/
def Obligations.InertInstructions : Prop :=
  (∀ w, opcBits w = 0 → decode w = .ok .nop) ∧ (∀ w, opcBits w = 10 → decode w = .ok .rsv10) ∧
  (∀ w, opcBits w = 11 → decode w = .ok .rsv11) ∧ (∀ w, opcBits w = 15 → decode w = .ok .halt) ∧
  ∀ s : State, exec .nop s = .next s ∧ exec .rsv10 s = .next s ∧ exec .rsv11 s = .next s ∧
    exec .halt s = .next { s with status := .halt }

/-! ## Class 1 -/

/-- R142: ADD completes with the sum modulo 2^32, `Z`, and `C` by the formula of its pseudocode; nothing else changes. -/
def Obligations.AddResult : Prop :=
  (∀ w, opcBits w = 1 → fnBits w = 0 → decode w = .ok (.add (drBits w) (sr1Bits w) (sr2Bits w))) ∧
  ∀ (s : State) (dr sr1 sr2 : Reg), ∃ t, exec (.add dr sr1 sr2) s = .next t ∧
    (getReg t dr).toNat = ((getReg s sr1).toNat + (getReg s sr2).toNat) % 2 ^ 32 ∧
    (t.zero = true ↔ (getReg t dr).toNat = 0) ∧
    (t.carry = true ↔ (getReg t dr).toNat < (getReg s sr1).toNat ∨ (getReg t dr).toNat < (getReg s sr2).toNat) ∧
    Frame { dest := some dr, carry := true, zero := true } s t

/-- R141's own derivation: "the formula always equals the true carry-out". -/
def Obligations.AddCarryIsCarryOut : Prop :=
  ∀ (s : State) (dr sr1 sr2 : Reg), ∃ t, exec (.add dr sr1 sr2) s = .next t ∧
    (t.carry = true ↔ 2 ^ 32 ≤ (getReg s sr1).toNat + (getReg s sr2).toNat)

/-- R143, R144, R145: SUB, MUL and NEG complete with the exact result modulo 2^32 and `Z`; `C` and all else unchanged. -/
def Obligations.SubMulNegResults : Prop :=
  (∀ w, opcBits w = 1 → fnBits w = 1 → decode w = .ok (.sub (drBits w) (sr1Bits w) (sr2Bits w))) ∧
  (∀ w, opcBits w = 1 → fnBits w = 2 → decode w = .ok (.mul (drBits w) (sr1Bits w) (sr2Bits w))) ∧
  (∀ w, opcBits w = 1 → fnBits w = 3 → decode w = .ok (.neg (drBits w) (sr1Bits w))) ∧
  ∀ dr sr1 sr2 : Reg,
    AluCompletes (.sub dr sr1 sr2) dr (fun s => BitVec.ofInt 32 ((getReg s sr1).toNat - (getReg s sr2).toNat : Int)) ∧
    AluCompletes (.mul dr sr1 sr2) dr (fun s => BitVec.ofNat 32 ((getReg s sr1).toNat * (getReg s sr2).toNat)) ∧
    AluCompletes (.neg dr sr1) dr (fun s => BitVec.ofInt 32 (-((getReg s sr1).toNat : Int)))

/-- R146, R147, R148 and R150, by the bitwise meanings the spec supplies "from general knowledge" (R10; GK1; log 20): AND,
OR, NOT and XOR complete, each bit of the result by the operands' bits, and `Z`. -/
def Obligations.LogicResults : Prop :=
  (∀ w, opcBits w = 1 → fnBits w = 4 → decode w = .ok (.and (drBits w) (sr1Bits w) (sr2Bits w))) ∧
  (∀ w, opcBits w = 1 → fnBits w = 5 → decode w = .ok (.or (drBits w) (sr1Bits w) (sr2Bits w))) ∧
  (∀ w, opcBits w = 1 → fnBits w = 6 → decode w = .ok (.not (drBits w) (sr1Bits w))) ∧
  (∀ w, opcBits w = 1 → fnBits w = 8 → decode w = .ok (.xor (drBits w) (sr1Bits w) (sr2Bits w))) ∧
  ∀ (dr sr1 sr2 : Reg) (i : Instr) (f : Bool → Bool → Bool),
    (i, f) ∈ [(Instr.and dr sr1 sr2, fun a b => a && b), (Instr.or dr sr1 sr2, fun a b => a || b),
      (Instr.not dr sr1, fun a _ => !a), (Instr.xor dr sr1 sr2, fun a b => a != b)] →
    BitwiseCompletes i dr sr1 sr2 f

/-- R149 and R151, whose pseudocode the spec supplies "from general knowledge" (93_implementation_defined.md GK2, GK3;
log 20): NAND and XNOR complete, each bit of the result by the operands' bits, and `Z`. -/
def Obligations.NandXnorResults : Prop :=
  (∀ w, opcBits w = 1 → fnBits w = 7 → decode w = .ok (.nand (drBits w) (sr1Bits w) (sr2Bits w))) ∧
  (∀ w, opcBits w = 1 → fnBits w = 9 → decode w = .ok (.xnor (drBits w) (sr1Bits w) (sr2Bits w))) ∧
  ∀ dr sr1 sr2 : Reg,
    BitwiseCompletes (.nand dr sr1 sr2) dr sr1 sr2 (fun a b => !(a && b)) ∧
    BitwiseCompletes (.xnor dr sr1 sr2) dr sr1 sr2 (fun a b => a == b)

/-- R152, R153, R154 and R158, by the logical shifts the spec supplies "from general knowledge" (R10; GK1; log 20): SHL, SHR
and ASR complete, by the low five bits of `x[sr2]`; ASR is SHR. -/
def Obligations.ShiftResults : Prop :=
  (∀ w, opcBits w = 1 → fnBits w = 10 → decode w = .ok (.shl (drBits w) (sr1Bits w) (sr2Bits w))) ∧
  (∀ w, opcBits w = 1 → fnBits w = 11 → decode w = .ok (.shr (drBits w) (sr1Bits w) (sr2Bits w))) ∧
  (∀ w, opcBits w = 1 → fnBits w = 12 → decode w = .ok (.asr (drBits w) (sr1Bits w) (sr2Bits w))) ∧
  ∀ dr sr1 sr2 : Reg,
    AluCompletes (.shl dr sr1 sr2) dr
      (fun s => BitVec.ofNat 32 ((getReg s sr1).toNat * 2 ^ ((getReg s sr2).toNat % 32))) ∧
    AluCompletes (.shr dr sr1 sr2) dr
      (fun s => BitVec.ofNat 32 ((getReg s sr1).toNat / 2 ^ ((getReg s sr2).toNat % 32))) ∧
    AluCompletes (.asr dr sr1 sr2) dr
      (fun s => BitVec.ofNat 32 ((getReg s sr1).toNat / 2 ^ ((getReg s sr2).toNat % 32)))

/-- R155 and R156, whose pseudocode the spec supplies "from general knowledge" (93_implementation_defined.md GK4, GK5;
log 20), by the amount of R158: ROL and ROR complete; each bit of the result is the bit of `x[sr1]` that many places round. -/
def Obligations.RotateResults : Prop :=
  (∀ w, opcBits w = 1 → fnBits w = 13 → decode w = .ok (.rol (drBits w) (sr1Bits w) (sr2Bits w))) ∧
  (∀ w, opcBits w = 1 → fnBits w = 14 → decode w = .ok (.ror (drBits w) (sr1Bits w) (sr2Bits w))) ∧
  ∀ (s : State) (dr sr1 sr2 : Reg),
    (∃ t, exec (.rol dr sr1 sr2) s = .next t ∧
      (∀ k, k < 32 → (getReg t dr).getLsbD ((k + (getReg s sr2).toNat) % 32) = (getReg s sr1).getLsbD k) ∧
      (t.zero = true ↔ getReg t dr = 0) ∧ Frame { dest := some dr, zero := true } s t) ∧
    (∃ t, exec (.ror dr sr1 sr2) s = .next t ∧
      (∀ k, k < 32 → (getReg t dr).getLsbD k = (getReg s sr1).getLsbD ((k + (getReg s sr2).toNat) % 32)) ∧
      (t.zero = true ↔ getReg t dr = 0) ∧ Frame { dest := some dr, zero := true } s t)

/-- R157: ZERO completes with 0 and `Z` true. -/
def Obligations.ZeroResult : Prop :=
  (∀ w, opcBits w = 1 → fnBits w = 15 → decode w = .ok (.zero (drBits w))) ∧
  ∀ (s : State) (dr : Reg), ∃ t, exec (.zero dr) s = .next t ∧ getReg t dr = 0 ∧ t.zero = true ∧
    Frame { dest := some dr, zero := true } s t

/-! ## Class 2 -/

/-- R170 to R176: the six compares complete and write `CMP` alone, by the unsigned test of their `fn`. -/
def Obligations.CompareResults : Prop :=
  (∀ w, opcBits w = 2 → fnBits w = 0 → decode w = .ok (.cmpgt (sr1Bits w) (sr2Bits w))) ∧
  (∀ w, opcBits w = 2 → fnBits w = 1 → decode w = .ok (.cmpeq (sr1Bits w) (sr2Bits w))) ∧
  (∀ w, opcBits w = 2 → fnBits w = 2 → decode w = .ok (.cmplt (sr1Bits w) (sr2Bits w))) ∧
  (∀ w, opcBits w = 2 → fnBits w = 3 → decode w = .ok (.cmpge (sr1Bits w) (sr2Bits w))) ∧
  (∀ w, opcBits w = 2 → fnBits w = 4 → decode w = .ok (.cmple (sr1Bits w) (sr2Bits w))) ∧
  (∀ w, opcBits w = 2 → 5 ≤ (fnBits w).toNat → decode w = .ok (.cmpnv (fnBits w) (sr1Bits w) (sr2Bits w))) ∧
  ∀ (s : State) (fn : BitVec 4) (sr1 sr2 : Reg) (i : Instr) (p : Prop),
    (i, p) ∈ [(Instr.cmpgt sr1 sr2, (getReg s sr1).toNat > (getReg s sr2).toNat),
      (Instr.cmpeq sr1 sr2, (getReg s sr1).toNat = (getReg s sr2).toNat),
      (Instr.cmplt sr1 sr2, (getReg s sr1).toNat < (getReg s sr2).toNat),
      (Instr.cmpge sr1 sr2, (getReg s sr1).toNat ≥ (getReg s sr2).toNat),
      (Instr.cmple sr1 sr2, (getReg s sr1).toNat ≤ (getReg s sr2).toNat),
      (Instr.cmpnv fn sr1 sr2, False)] →
    ∃ t, exec i s = .next t ∧ (t.comparison = true ↔ p) ∧ Frame { comparison := true } s t

/-! ## Class 3 -/

/-- R180, R182 to R189: the eight immediate-target jumps complete; `pc` becomes `imm24` when the condition holds, else it
keeps the advanced value; nothing else changes. -/
def Obligations.ImmediateJumps : Prop :=
  ∀ (imm24 : Imm) (jc : BitVec 3) (i : Instr),
    (jc, i) ∈ [((0 : BitVec 3), Instr.jmp imm24), (1, .jc imm24), (2, .jnc imm24), (3, .jcmp imm24), (4, .jncmp imm24),
      (5, .jz imm24), (6, .jnz imm24), (7, .jmpa imm24)] →
    (∀ w, opcBits w = 3 → jmBit w = false → jcBits w = jc → immBits w = imm24 → decode w = .ok i) ∧
    ∀ s : State, ∃ t, exec i s = .next t ∧ t.pc = (if condOf jc s then imm24.setWidth 32 else s.pc) ∧
      Frame { pc := true } s t

/-- R180, R181, R190 to R197: the eight register-target jumps complete; `pc` becomes `x[sr2]` masked to 24 bits when the
condition holds, else it keeps the advanced value; nothing else changes. -/
def Obligations.RegisterJumps : Prop :=
  ∀ (sr2 : Reg) (jc : BitVec 3) (i : Instr),
    (jc, i) ∈ [((0 : BitVec 3), Instr.jmpr sr2), (1, .jcr sr2), (2, .jncr sr2), (3, .jcmpr sr2), (4, .jncmpr sr2),
      (5, .jzr sr2), (6, .jnzr sr2), (7, .jmpar sr2)] →
    (∀ w, opcBits w = 3 → jmBit w = true → jcBits w = jc → sr2Bits w = sr2 → decode w = .ok i) ∧
    ∀ s : State, ∃ t, exec i s = .next t ∧
      t.pc.toNat = (if condOf jc s then (getReg s sr2).toNat % 2 ^ 24 else s.pc.toNat) ∧ Frame { pc := true } s t

/-! ## Classes 4 to 9 -/

/-- R210, R211: LOAD_ABS and LOAD_IND complete with the word at the address, which is read before the register is written,
and record the access. -/
def Obligations.LoadResults : Prop :=
  (∀ w, opcBits w = 4 → decode w = .ok (.loadAbs (drBits w) (immBits w))) ∧
  (∀ w, opcBits w = 5 → decode w = .ok (.loadInd (drBits w) (sr2Bits w))) ∧
  ∀ (s : State) (dr sr2 : Reg) (imm24 : Imm),
    (∃ t, exec (.loadAbs dr imm24) s = .next t ∧ getReg t dr = peek s imm24 ∧
      t.lastAccess = some (imm24, peek s imm24) ∧ Frame { dest := some dr, lastAccess := true } s t) ∧
    (∃ t, exec (.loadInd dr sr2) s = .next t ∧ getReg t dr = peek s (maskAddr (getReg s sr2)) ∧
      t.lastAccess = some (maskAddr (getReg s sr2), peek s (maskAddr (getReg s sr2))) ∧
      Frame { dest := some dr, lastAccess := true } s t)

/-- R212, R215: LOAD_IMM and MOV complete with the zero-extended immediate and the source register's value; no flag, no
memory word and no last access changes. -/
def Obligations.LoadImmediateAndMove : Prop :=
  (∀ w, opcBits w = 6 → decode w = .ok (.loadImm (drBits w) (immBits w))) ∧
  (∀ w, opcBits w = 9 → decode w = .ok (.mov (drBits w) (sr1Bits w))) ∧
  ∀ (s : State) (dr sr1 : Reg) (imm24 : Imm),
    (∃ t, exec (.loadImm dr imm24) s = .next t ∧ (getReg t dr).toNat = imm24.toNat ∧ Frame { dest := some dr } s t) ∧
    (∃ t, exec (.mov dr sr1) s = .next t ∧ getReg t dr = getReg s sr1 ∧ Frame { dest := some dr } s t)

/-- R213, R214: STORE_ABS and STORE_IND complete; the word at the address becomes the source register's value, the access
is recorded, and nothing else changes. -/
def Obligations.StoreResults : Prop :=
  (∀ w, opcBits w = 7 → decode w = .ok (.storeAbs (sr1Bits w) (immBits w))) ∧
  (∀ w, opcBits w = 8 → decode w = .ok (.storeInd (sr1Bits w) (sr2Bits w))) ∧
  ∀ (s : State) (sr1 sr2 : Reg) (imm24 : Imm),
    (∃ t, exec (.storeAbs sr1 imm24) s = .next t ∧ peek t imm24 = getReg s sr1 ∧
      t.lastAccess = some (imm24, getReg s sr1) ∧ Frame { stored := [imm24], lastAccess := true } s t) ∧
    (∃ t, exec (.storeInd sr1 sr2) s = .next t ∧ peek t (maskAddr (getReg s sr2)) = getReg s sr1 ∧
      t.lastAccess = some (maskAddr (getReg s sr2), getReg s sr1) ∧
      Frame { stored := [maskAddr (getReg s sr2)], lastAccess := true } s t)

/-! ## Class 12 -/

/-- R220: PUSH completes: `sp` down one, modulo 2^32, and `x[sr1]` at the masked new `sp`. -/
def Obligations.PushResult : Prop :=
  (∀ w, IsStack w 0 → decode w = .ok (.push (sr1Bits w))) ∧
  ∀ (s : State) (sr1 : Reg), ∃ t, exec (.push sr1) s = .next t ∧ t.sp = s.sp - 1 ∧
    peek t (maskAddr (s.sp - 1)) = getReg s sr1 ∧ t.lastAccess = some (maskAddr (s.sp - 1), getReg s sr1) ∧
    Frame { sp := true, stored := [maskAddr (s.sp - 1)], lastAccess := true } s t

/-- R221, R222, R223: POP, PEEK and SZERO complete: the word at the masked `sp`, with `sp` up one for POP only, or 0; no
flag and no memory word changes. -/
def Obligations.PopPeekSzeroResults : Prop :=
  (∀ w, IsStack w 1 → decode w = .ok (.pop (drBits w))) ∧ (∀ w, IsStack w 2 → decode w = .ok (.peek (drBits w))) ∧
  (∀ w, IsStack w 3 → decode w = .ok (.szero (drBits w))) ∧
  ∀ (s : State) (dr : Reg),
    (∃ t, exec (.pop dr) s = .next t ∧ getReg t dr = peek s (maskAddr s.sp) ∧ t.sp = s.sp + 1 ∧
      t.lastAccess = some (maskAddr s.sp, peek s (maskAddr s.sp)) ∧
      Frame { dest := some dr, sp := true, lastAccess := true } s t) ∧
    (∃ t, exec (.peek dr) s = .next t ∧ getReg t dr = peek s (maskAddr s.sp) ∧
      t.lastAccess = some (maskAddr s.sp, peek s (maskAddr s.sp)) ∧
      Frame { dest := some dr, lastAccess := true } s t) ∧
    (∃ t, exec (.szero dr) s = .next t ∧ getReg t dr = 0 ∧ Frame { dest := some dr } s t)

/-- R224: PUSH then POP copies `x[j]` into `x[k]` and restores `sp`; the pushed word stays in memory. -/
def Obligations.PushThenPop : Prop :=
  ∀ (s : State) (j k : Reg), ∃ t u, exec (.push j) s = .next t ∧ exec (.pop k) t = .next u ∧
    getReg u k = getReg s j ∧ u.sp = s.sp ∧ (∀ r, r ≠ k → getReg u r = getReg s r) ∧
    peek u (maskAddr (s.sp - 1)) = getReg s j ∧ ∀ a, a ≠ maskAddr (s.sp - 1) → peek u a = peek s a

/-! ## Class 13 -/

/-- R230: CALL completes: the masked advanced pc and the flags word in two words below the old `sp`, `pc` at the target. -/
def Obligations.CallResult : Prop :=
  (∀ w, IsSelect w 13 false → decode w = .ok (.call (immBits w))) ∧
  ∀ (s : State) (imm24 : Imm), ∃ t, exec (.call imm24) s = .next t ∧ t.pc = imm24.setWidth 32 ∧ t.sp = s.sp - 2 ∧
    (peek t (maskAddr (s.sp - 1))).toNat = s.pc.toNat % 2 ^ 24 ∧ peek t (maskAddr (s.sp - 2)) = packedFlags s ∧
    t.lastAccess = some (maskAddr (s.sp - 2), packedFlags s) ∧
    Frame { pc := true, sp := true, stored := [maskAddr (s.sp - 1), maskAddr (s.sp - 2)], lastAccess := true } s t

/-- R231, with 90_conflicts.md C1: RET completes: the flags from the word at `sp`, `pc` from the word above it, unmasked,
and `sp` up two. -/
def Obligations.RetResult : Prop :=
  (∀ w, IsSelect w 13 true → decode w = .ok .ret) ∧
  ∀ s : State, ∃ t, exec .ret s = .next t ∧ t.pc = peek s (maskAddr (s.sp + 1)) ∧ t.sp = s.sp + 2 ∧
    FlagsFrom (peek s (maskAddr s.sp)) t ∧
    t.lastAccess = some (maskAddr (s.sp + 1), peek s (maskAddr (s.sp + 1))) ∧
    Frame { pc := true, sp := true, carry := true, zero := true, comparison := true, lastAccess := true } s t

/-- R232: a CALL followed by the RET at its target returns to the word after the CALL (0 after the last word), restores `sp`
and the flags, keeps the general registers, `PRIV` and `reti`, and of memory changes only the two frame words. -/
def Obligations.CallThenRet : Prop :=
  ∀ s t u : State, step s = .next t → IsSelect (wordAt s) 13 false → IsSelect (wordAt t) 13 true → step t = .next u →
    u.pc.toNat = (s.pc.toNat + 1) % 2 ^ 24 ∧ u.sp = s.sp ∧ u.carry = s.carry ∧ u.zero = s.zero ∧
    u.comparison = s.comparison ∧ (∀ r, getReg u r = getReg s r) ∧ u.priv = s.priv ∧ u.reti = s.reti ∧
    ∀ a, a ≠ maskAddr (s.sp - 1) → a ≠ maskAddr (s.sp - 2) → peek u a = peek s a

/-! ## Class 14 -/

/-- R240, R254: SYSCALL completes by taking the trap: `reti` the advanced pc, the flags word pushed, `PRIV` set, `pc` the
vector cell's word as it stands after the push, the argument in cell 0x41 (which wins where the push landed there). -/
def Obligations.SyscallResult : Prop :=
  (∀ w, IsSelect w 14 false → decode w = .ok (.syscall (immBits w))) ∧
  ∀ (s : State) (imm24 : Imm), ∃ t, exec (.syscall imm24) s = .next t ∧ t.reti = s.pc ∧ t.sp = s.sp - 1 ∧
    t.priv = true ∧ t.pc = vectorWord s ∧ peek t 0x41 = imm24.setWidth 32 ∧
    (maskAddr (s.sp - 1) ≠ 0x41 → peek t (maskAddr (s.sp - 1)) = packedFlags s) ∧
    t.lastAccess = some (0x41, imm24.setWidth 32) ∧
    Frame { pc := true, sp := true, priv := true, reti := true, stored := [maskAddr (s.sp - 1), 0x41],
            lastAccess := true } s t

/-- R241, R256: RETI completes in either mode: the flags from the word at `sp`, `sp` up one, `pc` from `reti`, `PRIV`
cleared, `reti` kept. -/
def Obligations.RetiResult : Prop :=
  (∀ w, IsSelect w 14 true → decode w = .ok .reti) ∧
  ∀ s : State, ∃ t, exec .reti s = .next t ∧ t.pc = s.reti ∧ t.sp = s.sp + 1 ∧ t.priv = false ∧
    FlagsFrom (peek s (maskAddr s.sp)) t ∧ t.lastAccess = some (maskAddr s.sp, peek s (maskAddr s.sp)) ∧
    Frame { pc := true, sp := true, carry := true, zero := true, comparison := true, priv := true,
            lastAccess := true } s t

/-- R242: a SYSCALL, a handler that leaves `sp`, `reti` and the pushed word as SYSCALL left them, and a RETI return to the
word after the SYSCALL with `sp` as before and `PRIV` cleared, and with the flags as before unless the pushed word lay in
the argument cell 0x41, where the argument replaced it (R240). -/
def Obligations.SyscallThenReti : Prop :=
  ∀ s t h u : State, step s = .next t → IsSelect (wordAt s) 14 false → h.sp = t.sp → h.reti = t.reti →
    peek h (maskAddr t.sp) = peek t (maskAddr t.sp) → IsSelect (wordAt h) 14 true → step h = .next u →
    u.pc = s.pc + 1 ∧ u.sp = s.sp ∧ u.priv = false ∧ u.reti = s.pc + 1 ∧
    peek t 0x41 = (immBits (wordAt s)).setWidth 32 ∧
    (maskAddr (s.sp - 1) ≠ 0x41 → u.carry = s.carry ∧ u.zero = s.zero ∧ u.comparison = s.comparison) ∧
    (maskAddr (s.sp - 1) = 0x41 → FlagsFrom ((immBits (wordAt s)).setWidth 32) u)

/-! ## The host's operations -/

/-- R282, R283: reset clears the general registers, `pc`, `sp` and the flags, and leaves everything else, `PRIV`, `reti`
and memory among it. -/
def Obligations.ResetOperation : Prop :=
  ∀ s : State, ∃ t, hostOp .reset s = .next t ∧ (∀ r, getReg t r = 0) ∧ t.pc = 0 ∧ t.sp = 0 ∧ t.carry = false ∧
    t.zero = false ∧ t.comparison = false ∧ t.priv = s.priv ∧ t.reti = s.reti ∧ (∀ a, peek t a = peek s a) ∧
    t.lastAccess = s.lastAccess ∧ t.scratch = s.scratch ∧ t.cycles = s.cycles

/-- R280, R39: construction from an image of fewer than 2^24 words: the image at its addresses, the filler outside it, and
every register, flag and counter zero. -/
def Obligations.ConstructionState : Prop :=
  ∀ (s : State) (image : List Word) (logging : Bool) (speed : Nat), image.length < 2 ^ 24 →
    ∃ t, hostOp (.construct image logging speed) s = .next t ∧
      (∀ a : Addr, peek t a = image.getD a.toNat (Config.filler t.epoch a)) ∧
      (∀ r, getReg t r = 0) ∧ t.pc = 0 ∧ t.sp = 0 ∧ t.carry = false ∧ t.zero = false ∧ t.comparison = false ∧
      t.priv = false ∧ t.reti = 0 ∧ t.lastAccess = none ∧ t.scratch = ⟨0, 0, 0, 0, 0⟩ ∧ t.cycles = 0

/-- R284: restart is construction again with the image of the last construction, however many steps, resets and
introspections came between, and a filler of another number. -/
def Obligations.RestartOperation : Prop :=
  (∀ s : State, hostOp .restart s = .next (construct s.image (s.epoch + 1))) ∧
  (∀ s t : State, step s = .next t → t.image = s.image ∧ t.epoch = s.epoch) ∧
  (∀ s : State, (hostReset s).image = s.image ∧ (hostReset s).epoch = s.epoch) ∧
  ∀ (image : List Word) (epoch : Nat), (construct image epoch).image = image ∧ (construct image epoch).epoch = epoch

/-- R276: the end of a run is the first step that returns `Halt` or `PcOutOfBounds`. `runToEnd k` finds exactly that end when
it is among the first `k` steps, with the state after that step (a `PcOutOfBounds` step changes nothing); so a larger `k`
finds the same end. The search with a bound is the model's form (log 22). -/
def Obligations.EndOfRun : Prop :=
  ∀ (k : Nat) (s t : State) (x : Status),
    (runToEnd k s = some (x, t) ↔
      ∃ n u, n < k ∧ GoesOn n s u ∧
        ((x = .halt ∧ step u = .next t ∧ t.status = .halt) ∨
          (x = .pcOutOfBounds ∧ t = u ∧ step u = .fault .pcOutOfBounds))) ∧
    ∀ j, runToEnd k s = some (x, t) → runToEnd (k + j) s = some (x, t)
end

