-- ==== Sys2Proof/Laws/Decode.lean ====
section
/-! SUPPORT. How a field is read back from a word put together from fields, the fields by their bit positions, and the
values a selector can have. -/

namespace Sys2Proof

theorem field_or (lo n : Nat) (v w : Word) : field lo n (v ||| w) = field lo n v ||| field lo n w := by
  ext i hi
  simp [field]

/-- A field put at `lo` is read back whole. -/
theorem field_put_same {n : Nat} (lo : Nat) (v : BitVec n) (h : lo + n ≤ 32) : field lo n (put lo v) = v := by
  ext i hi
  have h1 : lo + i < 32 := by omega
  simp [field, put, h1, hi]

/-- A field reads nothing of a value put beside it. -/
theorem field_put_apart {m : Nat} (lo n lo' : Nat) (v : BitVec m) (h : lo + n ≤ lo' ∨ lo' + m ≤ lo) :
    field lo n (put lo' v) = 0 := by
  ext i hi
  rcases h with h | h
  · have h1 : lo + i < lo' := by omega
    simp [field, put, BitVec.getLsbD_shiftLeft, h1]
  · have h1 : v.getLsbD (lo + i - lo') = false := BitVec.getLsbD_of_ge _ _ (by omega)
    simp [field, put, BitVec.getLsbD_shiftLeft, BitVec.getLsbD_setWidth, h1]

/-- A field inside a value put at `lo'` reads that part of it. -/
theorem field_put_within {m : Nat} (lo n lo' : Nat) (v : BitVec m) (h : lo' ≤ lo) (h32 : lo + n ≤ 32) :
    field lo n (put lo' v) = v.extractLsb' (lo - lo') n := by
  ext i hi
  have h1 : ¬ lo + i < lo' := by omega
  have h2 : lo + i < 32 := by omega
  have h3 : lo + i - lo' = lo - lo' + i := by omega
  simp [field, put, h1, h2, h3]

/-- Putting a field back keeps the word's bits there and clears the rest. -/
theorem put_field (lo n : Nat) (w : Word) : put lo (field lo n w) = w &&& put lo (BitVec.allOnes n) := by
  ext i hi
  by_cases h1 : i < lo
  · simp [field, put, h1]
  · have h2 : lo + (i - lo) = i := by omega
    by_cases h3 : i - lo < n
    · simp [field, put, h1, h2, h3, BitVec.getLsbD_eq_getElem hi]
    · simp [field, put, h1, h3]

/-! ## The fields by their positions (R72, R73) -/

theorem opcOf_eq (w : Word) : opcOf w = w.extractLsb' 28 4 := rfl
theorem drOf_eq (w : Word) : drOf w = w.extractLsb' 24 4 := rfl
theorem sr1Of_eq (w : Word) : sr1Of w = w.extractLsb' 20 4 := rfl
theorem sr2Of_eq (w : Word) : sr2Of w = w.extractLsb' 16 4 := rfl
theorem immOf_eq (w : Word) : immOf w = w.extractLsb' 0 24 := rfl
theorem fnOf_eq (w : Word) : fnOf w = w.extractLsb' 0 4 := rfl
theorem sopOf_eq (w : Word) : sopOf w = w.extractLsb' 0 2 := rfl
theorem jmOf_eq (w : Word) : jmOf w = w.extractLsb' 27 1 := rfl
theorem jcOf_eq (w : Word) : jcOf w = w.extractLsb' 24 3 := rfl
theorem sOf_eq (w : Word) : sOf w = w.extractLsb' 24 1 := rfl

/-- The source register of STORE_ABS is bits 23 to 20 of its address (R77). -/
theorem storeAbsSource_eq (imm24 : Imm) : storeAbsSource imm24 = imm24.extractLsb' 20 4 :=
  field_put_within 20 4 0 imm24 (by decide) (by decide)

/-- The source register of a STORE_ABS word is the top four bits of its address (R77). -/
theorem sr1Of_eq_storeAbsSource (w : Word) : sr1Of w = storeAbsSource (immOf w) := by
  rw [storeAbsSource_eq]
  ext i hi
  simp [sr1Of, immOf, field, layout]

/-! ## Selectors -/

/-- A 4-bit selector has one of sixteen values. -/
theorem four_bit_cases (x : BitVec 4) :
    x = 0 ∨ x = 1 ∨ x = 2 ∨ x = 3 ∨ x = 4 ∨ x = 5 ∨ x = 6 ∨ x = 7 ∨
      x = 8 ∨ x = 9 ∨ x = 10 ∨ x = 11 ∨ x = 12 ∨ x = 13 ∨ x = 14 ∨ x = 15 := by
  revert x
  decide

/-- A 3-bit selector has one of eight values. -/
theorem three_bit_cases (x : BitVec 3) :
    x = 0 ∨ x = 1 ∨ x = 2 ∨ x = 3 ∨ x = 4 ∨ x = 5 ∨ x = 6 ∨ x = 7 := by
  revert x
  decide

/-- A 2-bit selector has one of four values. -/
theorem two_bit_cases (x : BitVec 2) : x = 0 ∨ x = 1 ∨ x = 2 ∨ x = 3 := by
  revert x
  decide

/-- A 1-bit selector has one of two values. -/
theorem one_bit_cases (x : BitVec 1) : x = 0 ∨ x = 1 := by
  revert x
  decide

/-! ## The decoder, said once -/

/-- What a word's fields are when it decodes to an instruction (R78 to R83). -/
def DecodesTo (w : Word) : Instr → Prop
  | .nop => opcOf w = 0
  | .add dr sr1 sr2 => opcOf w = 1 ∧ fnOf w = 0 ∧ dr = drOf w ∧ sr1 = sr1Of w ∧ sr2 = sr2Of w
  | .sub dr sr1 sr2 => opcOf w = 1 ∧ fnOf w = 1 ∧ dr = drOf w ∧ sr1 = sr1Of w ∧ sr2 = sr2Of w
  | .mul dr sr1 sr2 => opcOf w = 1 ∧ fnOf w = 2 ∧ dr = drOf w ∧ sr1 = sr1Of w ∧ sr2 = sr2Of w
  | .neg dr sr1 => opcOf w = 1 ∧ fnOf w = 3 ∧ dr = drOf w ∧ sr1 = sr1Of w
  | .and dr sr1 sr2 => opcOf w = 1 ∧ fnOf w = 4 ∧ dr = drOf w ∧ sr1 = sr1Of w ∧ sr2 = sr2Of w
  | .or dr sr1 sr2 => opcOf w = 1 ∧ fnOf w = 5 ∧ dr = drOf w ∧ sr1 = sr1Of w ∧ sr2 = sr2Of w
  | .not dr sr1 => opcOf w = 1 ∧ fnOf w = 6 ∧ dr = drOf w ∧ sr1 = sr1Of w
  | .nand dr sr1 sr2 => opcOf w = 1 ∧ fnOf w = 7 ∧ dr = drOf w ∧ sr1 = sr1Of w ∧ sr2 = sr2Of w
  | .xor dr sr1 sr2 => opcOf w = 1 ∧ fnOf w = 8 ∧ dr = drOf w ∧ sr1 = sr1Of w ∧ sr2 = sr2Of w
  | .xnor dr sr1 sr2 => opcOf w = 1 ∧ fnOf w = 9 ∧ dr = drOf w ∧ sr1 = sr1Of w ∧ sr2 = sr2Of w
  | .shl dr sr1 sr2 => opcOf w = 1 ∧ fnOf w = 10 ∧ dr = drOf w ∧ sr1 = sr1Of w ∧ sr2 = sr2Of w
  | .shr dr sr1 sr2 => opcOf w = 1 ∧ fnOf w = 11 ∧ dr = drOf w ∧ sr1 = sr1Of w ∧ sr2 = sr2Of w
  | .asr dr sr1 sr2 => opcOf w = 1 ∧ fnOf w = 12 ∧ dr = drOf w ∧ sr1 = sr1Of w ∧ sr2 = sr2Of w
  | .rol dr sr1 sr2 => opcOf w = 1 ∧ fnOf w = 13 ∧ dr = drOf w ∧ sr1 = sr1Of w ∧ sr2 = sr2Of w
  | .ror dr sr1 sr2 => opcOf w = 1 ∧ fnOf w = 14 ∧ dr = drOf w ∧ sr1 = sr1Of w ∧ sr2 = sr2Of w
  | .zero dr => opcOf w = 1 ∧ fnOf w = 15 ∧ dr = drOf w
  | .cmpgt sr1 sr2 => opcOf w = 2 ∧ fnOf w = 0 ∧ sr1 = sr1Of w ∧ sr2 = sr2Of w
  | .cmpeq sr1 sr2 => opcOf w = 2 ∧ fnOf w = 1 ∧ sr1 = sr1Of w ∧ sr2 = sr2Of w
  | .cmplt sr1 sr2 => opcOf w = 2 ∧ fnOf w = 2 ∧ sr1 = sr1Of w ∧ sr2 = sr2Of w
  | .cmpge sr1 sr2 => opcOf w = 2 ∧ fnOf w = 3 ∧ sr1 = sr1Of w ∧ sr2 = sr2Of w
  | .cmple sr1 sr2 => opcOf w = 2 ∧ fnOf w = 4 ∧ sr1 = sr1Of w ∧ sr2 = sr2Of w
  | .cmpnv fn sr1 sr2 => opcOf w = 2 ∧ 5 ≤ (fnOf w).toNat ∧ fn = fnOf w ∧ sr1 = sr1Of w ∧ sr2 = sr2Of w
  | .jmp imm24 => opcOf w = 3 ∧ jcOf w = 0 ∧ jmOf w = 0 ∧ imm24 = immOf w
  | .jc imm24 => opcOf w = 3 ∧ jcOf w = 1 ∧ jmOf w = 0 ∧ imm24 = immOf w
  | .jnc imm24 => opcOf w = 3 ∧ jcOf w = 2 ∧ jmOf w = 0 ∧ imm24 = immOf w
  | .jcmp imm24 => opcOf w = 3 ∧ jcOf w = 3 ∧ jmOf w = 0 ∧ imm24 = immOf w
  | .jncmp imm24 => opcOf w = 3 ∧ jcOf w = 4 ∧ jmOf w = 0 ∧ imm24 = immOf w
  | .jz imm24 => opcOf w = 3 ∧ jcOf w = 5 ∧ jmOf w = 0 ∧ imm24 = immOf w
  | .jnz imm24 => opcOf w = 3 ∧ jcOf w = 6 ∧ jmOf w = 0 ∧ imm24 = immOf w
  | .jmpa imm24 => opcOf w = 3 ∧ jcOf w = 7 ∧ jmOf w = 0 ∧ imm24 = immOf w
  | .jmpr sr2 => opcOf w = 3 ∧ jcOf w = 0 ∧ jmOf w = 1 ∧ sr2 = sr2Of w
  | .jcr sr2 => opcOf w = 3 ∧ jcOf w = 1 ∧ jmOf w = 1 ∧ sr2 = sr2Of w
  | .jncr sr2 => opcOf w = 3 ∧ jcOf w = 2 ∧ jmOf w = 1 ∧ sr2 = sr2Of w
  | .jcmpr sr2 => opcOf w = 3 ∧ jcOf w = 3 ∧ jmOf w = 1 ∧ sr2 = sr2Of w
  | .jncmpr sr2 => opcOf w = 3 ∧ jcOf w = 4 ∧ jmOf w = 1 ∧ sr2 = sr2Of w
  | .jzr sr2 => opcOf w = 3 ∧ jcOf w = 5 ∧ jmOf w = 1 ∧ sr2 = sr2Of w
  | .jnzr sr2 => opcOf w = 3 ∧ jcOf w = 6 ∧ jmOf w = 1 ∧ sr2 = sr2Of w
  | .jmpar sr2 => opcOf w = 3 ∧ jcOf w = 7 ∧ jmOf w = 1 ∧ sr2 = sr2Of w
  | .loadAbs dr imm24 => opcOf w = 4 ∧ dr = drOf w ∧ imm24 = immOf w
  | .loadInd dr sr2 => opcOf w = 5 ∧ dr = drOf w ∧ sr2 = sr2Of w
  | .loadImm dr imm24 => opcOf w = 6 ∧ dr = drOf w ∧ imm24 = immOf w
  | .storeAbs sr1 imm24 => opcOf w = 7 ∧ sr1 = sr1Of w ∧ imm24 = immOf w
  | .storeInd sr1 sr2 => opcOf w = 8 ∧ sr1 = sr1Of w ∧ sr2 = sr2Of w
  | .mov dr sr1 => opcOf w = 9 ∧ dr = drOf w ∧ sr1 = sr1Of w
  | .rsv10 => opcOf w = 10
  | .rsv11 => opcOf w = 11
  | .push sr1 => opcOf w = 12 ∧ sopOf w = 0 ∧ sr1 = sr1Of w
  | .pop dr => opcOf w = 12 ∧ sopOf w = 1 ∧ dr = drOf w
  | .peek dr => opcOf w = 12 ∧ sopOf w = 2 ∧ dr = drOf w
  | .szero dr => opcOf w = 12 ∧ sopOf w = 3 ∧ dr = drOf w
  | .call imm24 => opcOf w = 13 ∧ sOf w = 0 ∧ imm24 = immOf w
  | .ret => opcOf w = 13 ∧ sOf w = 1
  | .syscall imm24 => opcOf w = 14 ∧ sOf w = 0 ∧ imm24 = immOf w
  | .reti => opcOf w = 14 ∧ sOf w = 1
  | .halt => opcOf w = 15

/-- The decoder reads every instruction from its class, its selector and its fields. -/
theorem decode_shape {w : Word} {i : Instr} (h : decode w = .ok i) : DecodesTo w i := by
  unfold decode decodeAlu decodeCompare decodeJumpImm decodeJumpReg decodeStack at h
  rcases four_bit_cases (opcOf w) with
    h0 | h0 | h0 | h0 | h0 | h0 | h0 | h0 | h0 | h0 | h0 | h0 | h0 | h0 | h0 | h0 <;> simp only [h0] at h
  case inr.inl | inr.inr.inl =>
    rcases four_bit_cases (fnOf w) with
      h1 | h1 | h1 | h1 | h1 | h1 | h1 | h1 | h1 | h1 | h1 | h1 | h1 | h1 | h1 | h1 <;>
      simp only [h1] at h <;> injection h with h <;> subst h <;>
      (first
        | exact ⟨h0, h1, rfl, rfl, rfl⟩
        | exact ⟨h0, h1, rfl, rfl⟩
        | exact ⟨h0, h1, rfl⟩
        | exact ⟨h0, by rw [h1]; decide, h1.symm, rfl, rfl⟩)
  case inr.inr.inr.inl =>
    rcases one_bit_cases (jmOf w) with h2 | h2 <;> simp only [h2] at h <;>
      rcases three_bit_cases (jcOf w) with h1 | h1 | h1 | h1 | h1 | h1 | h1 | h1 <;>
      simp [h1] at h <;> subst h <;> exact ⟨h0, h1, h2, rfl⟩
  case inr.inr.inr.inr.inr.inr.inr.inr.inr.inr.inr.inr.inl =>
    rcases two_bit_cases (sopOf w) with h1 | h1 | h1 | h1 <;> simp [h1] at h <;> subst h <;> exact ⟨h0, h1, rfl⟩
  case inr.inr.inr.inr.inr.inr.inr.inr.inr.inr.inr.inr.inr.inl |
      inr.inr.inr.inr.inr.inr.inr.inr.inr.inr.inr.inr.inr.inr.inl =>
    rcases one_bit_cases (sOf w) with h1 | h1 <;> simp [h1] at h <;> subst h <;>
      (first
        | exact ⟨h0, h1, rfl⟩
        | exact ⟨h0, h1⟩)
  all_goals
    simp at h
    subst h
    first
      | exact h0
      | exact ⟨h0, rfl, rfl⟩

end Sys2Proof
end

