-- ==== Sys2Proof/Laws/State.lean ====
section
/-! SUPPORT. One lemma per field per update of the state, so that no proof unfolds a record update, and the values of the
named widths. -/

namespace Sys2Proof

@[simp] theorem Config.xlen_eq : Config.xlen = 32 := rfl
theorem Config.nregs_eq : Config.nregs = 16 := rfl
@[simp] theorem Config.addrBits_eq : Config.addrBits = 24 := rfl
@[simp] theorem Config.immBits_eq : Config.immBits = 24 := rfl
@[simp] theorem Config.pcBits_eq : Config.pcBits = 32 := rfl

end Sys2Proof

namespace Sys2Proof.Machine

@[simp] theorem pcOfWord_eq (w : Word) : pcOfWord w = w := rfl
@[simp] theorem wordOfPc_eq (p : Pc) : wordOfPc p = p := rfl

variable (s : State)

@[simp] theorem setReg_regs (i : Reg) (v : Word) : (setReg i v s).regs = s.regs.set i.toNat v (Config.reg_lt i) := rfl
@[simp] theorem setReg_pc (i : Reg) (v : Word) : (setReg i v s).pc = s.pc := rfl
@[simp] theorem setReg_sp (i : Reg) (v : Word) : (setReg i v s).sp = s.sp := rfl
@[simp] theorem setReg_carry (i : Reg) (v : Word) : (setReg i v s).carry = s.carry := rfl
@[simp] theorem setReg_zero (i : Reg) (v : Word) : (setReg i v s).zero = s.zero := rfl
@[simp] theorem setReg_comparison (i : Reg) (v : Word) : (setReg i v s).comparison = s.comparison := rfl
@[simp] theorem setReg_priv (i : Reg) (v : Word) : (setReg i v s).priv = s.priv := rfl
@[simp] theorem setReg_reti (i : Reg) (v : Word) : (setReg i v s).reti = s.reti := rfl
@[simp] theorem setReg_mem (i : Reg) (v : Word) : (setReg i v s).mem = s.mem := rfl
@[simp] theorem setReg_lastAccess (i : Reg) (v : Word) : (setReg i v s).lastAccess = s.lastAccess := rfl
@[simp] theorem setReg_scratch (i : Reg) (v : Word) : (setReg i v s).scratch = s.scratch := rfl
@[simp] theorem setReg_cycles (i : Reg) (v : Word) : (setReg i v s).cycles = s.cycles := rfl
@[simp] theorem setReg_status (i : Reg) (v : Word) : (setReg i v s).status = s.status := rfl
@[simp] theorem setReg_image (i : Reg) (v : Word) : (setReg i v s).image = s.image := rfl
@[simp] theorem setReg_epoch (i : Reg) (v : Word) : (setReg i v s).epoch = s.epoch := rfl

@[simp] theorem setPc_regs (v : Word) : (setPc v s).regs = s.regs := rfl
@[simp] theorem setPc_pc (v : Word) : (setPc v s).pc = v := rfl
@[simp] theorem setPc_sp (v : Word) : (setPc v s).sp = s.sp := rfl
@[simp] theorem setPc_carry (v : Word) : (setPc v s).carry = s.carry := rfl
@[simp] theorem setPc_zero (v : Word) : (setPc v s).zero = s.zero := rfl
@[simp] theorem setPc_comparison (v : Word) : (setPc v s).comparison = s.comparison := rfl
@[simp] theorem setPc_priv (v : Word) : (setPc v s).priv = s.priv := rfl
@[simp] theorem setPc_reti (v : Word) : (setPc v s).reti = s.reti := rfl
@[simp] theorem setPc_mem (v : Word) : (setPc v s).mem = s.mem := rfl
@[simp] theorem setPc_lastAccess (v : Word) : (setPc v s).lastAccess = s.lastAccess := rfl
@[simp] theorem setPc_scratch (v : Word) : (setPc v s).scratch = s.scratch := rfl
@[simp] theorem setPc_cycles (v : Word) : (setPc v s).cycles = s.cycles := rfl
@[simp] theorem setPc_status (v : Word) : (setPc v s).status = s.status := rfl
@[simp] theorem setPc_image (v : Word) : (setPc v s).image = s.image := rfl
@[simp] theorem setPc_epoch (v : Word) : (setPc v s).epoch = s.epoch := rfl

@[simp] theorem setSp_regs (v : Word) : (setSp v s).regs = s.regs := rfl
@[simp] theorem setSp_pc (v : Word) : (setSp v s).pc = s.pc := rfl
@[simp] theorem setSp_sp (v : Word) : (setSp v s).sp = v := rfl
@[simp] theorem setSp_carry (v : Word) : (setSp v s).carry = s.carry := rfl
@[simp] theorem setSp_zero (v : Word) : (setSp v s).zero = s.zero := rfl
@[simp] theorem setSp_comparison (v : Word) : (setSp v s).comparison = s.comparison := rfl
@[simp] theorem setSp_priv (v : Word) : (setSp v s).priv = s.priv := rfl
@[simp] theorem setSp_reti (v : Word) : (setSp v s).reti = s.reti := rfl
@[simp] theorem setSp_mem (v : Word) : (setSp v s).mem = s.mem := rfl
@[simp] theorem setSp_lastAccess (v : Word) : (setSp v s).lastAccess = s.lastAccess := rfl
@[simp] theorem setSp_scratch (v : Word) : (setSp v s).scratch = s.scratch := rfl
@[simp] theorem setSp_cycles (v : Word) : (setSp v s).cycles = s.cycles := rfl
@[simp] theorem setSp_status (v : Word) : (setSp v s).status = s.status := rfl
@[simp] theorem setSp_image (v : Word) : (setSp v s).image = s.image := rfl
@[simp] theorem setSp_epoch (v : Word) : (setSp v s).epoch = s.epoch := rfl

@[simp] theorem setCarry_regs (b : Bool) : (setCarry b s).regs = s.regs := rfl
@[simp] theorem setCarry_pc (b : Bool) : (setCarry b s).pc = s.pc := rfl
@[simp] theorem setCarry_sp (b : Bool) : (setCarry b s).sp = s.sp := rfl
@[simp] theorem setCarry_carry (b : Bool) : (setCarry b s).carry = b := rfl
@[simp] theorem setCarry_zero (b : Bool) : (setCarry b s).zero = s.zero := rfl
@[simp] theorem setCarry_comparison (b : Bool) : (setCarry b s).comparison = s.comparison := rfl
@[simp] theorem setCarry_priv (b : Bool) : (setCarry b s).priv = s.priv := rfl
@[simp] theorem setCarry_reti (b : Bool) : (setCarry b s).reti = s.reti := rfl
@[simp] theorem setCarry_mem (b : Bool) : (setCarry b s).mem = s.mem := rfl
@[simp] theorem setCarry_lastAccess (b : Bool) : (setCarry b s).lastAccess = s.lastAccess := rfl
@[simp] theorem setCarry_scratch (b : Bool) : (setCarry b s).scratch = s.scratch := rfl
@[simp] theorem setCarry_cycles (b : Bool) : (setCarry b s).cycles = s.cycles := rfl
@[simp] theorem setCarry_status (b : Bool) : (setCarry b s).status = s.status := rfl
@[simp] theorem setCarry_image (b : Bool) : (setCarry b s).image = s.image := rfl
@[simp] theorem setCarry_epoch (b : Bool) : (setCarry b s).epoch = s.epoch := rfl

@[simp] theorem setZero_regs (b : Bool) : (setZero b s).regs = s.regs := rfl
@[simp] theorem setZero_pc (b : Bool) : (setZero b s).pc = s.pc := rfl
@[simp] theorem setZero_sp (b : Bool) : (setZero b s).sp = s.sp := rfl
@[simp] theorem setZero_carry (b : Bool) : (setZero b s).carry = s.carry := rfl
@[simp] theorem setZero_zero (b : Bool) : (setZero b s).zero = b := rfl
@[simp] theorem setZero_comparison (b : Bool) : (setZero b s).comparison = s.comparison := rfl
@[simp] theorem setZero_priv (b : Bool) : (setZero b s).priv = s.priv := rfl
@[simp] theorem setZero_reti (b : Bool) : (setZero b s).reti = s.reti := rfl
@[simp] theorem setZero_mem (b : Bool) : (setZero b s).mem = s.mem := rfl
@[simp] theorem setZero_lastAccess (b : Bool) : (setZero b s).lastAccess = s.lastAccess := rfl
@[simp] theorem setZero_scratch (b : Bool) : (setZero b s).scratch = s.scratch := rfl
@[simp] theorem setZero_cycles (b : Bool) : (setZero b s).cycles = s.cycles := rfl
@[simp] theorem setZero_status (b : Bool) : (setZero b s).status = s.status := rfl
@[simp] theorem setZero_image (b : Bool) : (setZero b s).image = s.image := rfl
@[simp] theorem setZero_epoch (b : Bool) : (setZero b s).epoch = s.epoch := rfl

@[simp] theorem setComparison_regs (b : Bool) : (setComparison b s).regs = s.regs := rfl
@[simp] theorem setComparison_pc (b : Bool) : (setComparison b s).pc = s.pc := rfl
@[simp] theorem setComparison_sp (b : Bool) : (setComparison b s).sp = s.sp := rfl
@[simp] theorem setComparison_carry (b : Bool) : (setComparison b s).carry = s.carry := rfl
@[simp] theorem setComparison_zero (b : Bool) : (setComparison b s).zero = s.zero := rfl
@[simp] theorem setComparison_comparison (b : Bool) : (setComparison b s).comparison = b := rfl
@[simp] theorem setComparison_priv (b : Bool) : (setComparison b s).priv = s.priv := rfl
@[simp] theorem setComparison_reti (b : Bool) : (setComparison b s).reti = s.reti := rfl
@[simp] theorem setComparison_mem (b : Bool) : (setComparison b s).mem = s.mem := rfl
@[simp] theorem setComparison_lastAccess (b : Bool) : (setComparison b s).lastAccess = s.lastAccess := rfl
@[simp] theorem setComparison_scratch (b : Bool) : (setComparison b s).scratch = s.scratch := rfl
@[simp] theorem setComparison_cycles (b : Bool) : (setComparison b s).cycles = s.cycles := rfl
@[simp] theorem setComparison_status (b : Bool) : (setComparison b s).status = s.status := rfl
@[simp] theorem setComparison_image (b : Bool) : (setComparison b s).image = s.image := rfl
@[simp] theorem setComparison_epoch (b : Bool) : (setComparison b s).epoch = s.epoch := rfl

@[simp] theorem setPriv_regs (b : Bool) : (setPriv b s).regs = s.regs := rfl
@[simp] theorem setPriv_pc (b : Bool) : (setPriv b s).pc = s.pc := rfl
@[simp] theorem setPriv_sp (b : Bool) : (setPriv b s).sp = s.sp := rfl
@[simp] theorem setPriv_carry (b : Bool) : (setPriv b s).carry = s.carry := rfl
@[simp] theorem setPriv_zero (b : Bool) : (setPriv b s).zero = s.zero := rfl
@[simp] theorem setPriv_comparison (b : Bool) : (setPriv b s).comparison = s.comparison := rfl
@[simp] theorem setPriv_priv (b : Bool) : (setPriv b s).priv = b := rfl
@[simp] theorem setPriv_reti (b : Bool) : (setPriv b s).reti = s.reti := rfl
@[simp] theorem setPriv_mem (b : Bool) : (setPriv b s).mem = s.mem := rfl
@[simp] theorem setPriv_lastAccess (b : Bool) : (setPriv b s).lastAccess = s.lastAccess := rfl
@[simp] theorem setPriv_scratch (b : Bool) : (setPriv b s).scratch = s.scratch := rfl
@[simp] theorem setPriv_cycles (b : Bool) : (setPriv b s).cycles = s.cycles := rfl
@[simp] theorem setPriv_status (b : Bool) : (setPriv b s).status = s.status := rfl
@[simp] theorem setPriv_image (b : Bool) : (setPriv b s).image = s.image := rfl
@[simp] theorem setPriv_epoch (b : Bool) : (setPriv b s).epoch = s.epoch := rfl

@[simp] theorem setReti_regs (v : Word) : (setReti v s).regs = s.regs := rfl
@[simp] theorem setReti_pc (v : Word) : (setReti v s).pc = s.pc := rfl
@[simp] theorem setReti_sp (v : Word) : (setReti v s).sp = s.sp := rfl
@[simp] theorem setReti_carry (v : Word) : (setReti v s).carry = s.carry := rfl
@[simp] theorem setReti_zero (v : Word) : (setReti v s).zero = s.zero := rfl
@[simp] theorem setReti_comparison (v : Word) : (setReti v s).comparison = s.comparison := rfl
@[simp] theorem setReti_priv (v : Word) : (setReti v s).priv = s.priv := rfl
@[simp] theorem setReti_reti (v : Word) : (setReti v s).reti = v := rfl
@[simp] theorem setReti_mem (v : Word) : (setReti v s).mem = s.mem := rfl
@[simp] theorem setReti_lastAccess (v : Word) : (setReti v s).lastAccess = s.lastAccess := rfl
@[simp] theorem setReti_scratch (v : Word) : (setReti v s).scratch = s.scratch := rfl
@[simp] theorem setReti_cycles (v : Word) : (setReti v s).cycles = s.cycles := rfl
@[simp] theorem setReti_status (v : Word) : (setReti v s).status = s.status := rfl
@[simp] theorem setReti_image (v : Word) : (setReti v s).image = s.image := rfl
@[simp] theorem setReti_epoch (v : Word) : (setReti v s).epoch = s.epoch := rfl

@[simp] theorem setStatus_regs (x : Status) : (setStatus x s).regs = s.regs := rfl
@[simp] theorem setStatus_pc (x : Status) : (setStatus x s).pc = s.pc := rfl
@[simp] theorem setStatus_sp (x : Status) : (setStatus x s).sp = s.sp := rfl
@[simp] theorem setStatus_carry (x : Status) : (setStatus x s).carry = s.carry := rfl
@[simp] theorem setStatus_zero (x : Status) : (setStatus x s).zero = s.zero := rfl
@[simp] theorem setStatus_comparison (x : Status) : (setStatus x s).comparison = s.comparison := rfl
@[simp] theorem setStatus_priv (x : Status) : (setStatus x s).priv = s.priv := rfl
@[simp] theorem setStatus_reti (x : Status) : (setStatus x s).reti = s.reti := rfl
@[simp] theorem setStatus_mem (x : Status) : (setStatus x s).mem = s.mem := rfl
@[simp] theorem setStatus_lastAccess (x : Status) : (setStatus x s).lastAccess = s.lastAccess := rfl
@[simp] theorem setStatus_scratch (x : Status) : (setStatus x s).scratch = s.scratch := rfl
@[simp] theorem setStatus_cycles (x : Status) : (setStatus x s).cycles = s.cycles := rfl
@[simp] theorem setStatus_status (x : Status) : (setStatus x s).status = x := rfl
@[simp] theorem setStatus_image (x : Status) : (setStatus x s).image = s.image := rfl
@[simp] theorem setStatus_epoch (x : Status) : (setStatus x s).epoch = s.epoch := rfl

@[simp] theorem setScratch_regs (x : Scratch) : (setScratch x s).regs = s.regs := rfl
@[simp] theorem setScratch_pc (x : Scratch) : (setScratch x s).pc = s.pc := rfl
@[simp] theorem setScratch_sp (x : Scratch) : (setScratch x s).sp = s.sp := rfl
@[simp] theorem setScratch_carry (x : Scratch) : (setScratch x s).carry = s.carry := rfl
@[simp] theorem setScratch_zero (x : Scratch) : (setScratch x s).zero = s.zero := rfl
@[simp] theorem setScratch_comparison (x : Scratch) : (setScratch x s).comparison = s.comparison := rfl
@[simp] theorem setScratch_priv (x : Scratch) : (setScratch x s).priv = s.priv := rfl
@[simp] theorem setScratch_reti (x : Scratch) : (setScratch x s).reti = s.reti := rfl
@[simp] theorem setScratch_mem (x : Scratch) : (setScratch x s).mem = s.mem := rfl
@[simp] theorem setScratch_lastAccess (x : Scratch) : (setScratch x s).lastAccess = s.lastAccess := rfl
@[simp] theorem setScratch_scratch (x : Scratch) : (setScratch x s).scratch = x := rfl
@[simp] theorem setScratch_cycles (x : Scratch) : (setScratch x s).cycles = s.cycles := rfl
@[simp] theorem setScratch_status (x : Scratch) : (setScratch x s).status = s.status := rfl
@[simp] theorem setScratch_image (x : Scratch) : (setScratch x s).image = s.image := rfl
@[simp] theorem setScratch_epoch (x : Scratch) : (setScratch x s).epoch = s.epoch := rfl

@[simp] theorem addCycles_regs (n : Nat) : (addCycles n s).regs = s.regs := rfl
@[simp] theorem addCycles_pc (n : Nat) : (addCycles n s).pc = s.pc := rfl
@[simp] theorem addCycles_sp (n : Nat) : (addCycles n s).sp = s.sp := rfl
@[simp] theorem addCycles_carry (n : Nat) : (addCycles n s).carry = s.carry := rfl
@[simp] theorem addCycles_zero (n : Nat) : (addCycles n s).zero = s.zero := rfl
@[simp] theorem addCycles_comparison (n : Nat) : (addCycles n s).comparison = s.comparison := rfl
@[simp] theorem addCycles_priv (n : Nat) : (addCycles n s).priv = s.priv := rfl
@[simp] theorem addCycles_reti (n : Nat) : (addCycles n s).reti = s.reti := rfl
@[simp] theorem addCycles_mem (n : Nat) : (addCycles n s).mem = s.mem := rfl
@[simp] theorem addCycles_lastAccess (n : Nat) : (addCycles n s).lastAccess = s.lastAccess := rfl
@[simp] theorem addCycles_scratch (n : Nat) : (addCycles n s).scratch = s.scratch := rfl
@[simp] theorem addCycles_cycles (n : Nat) : (addCycles n s).cycles = s.cycles + n := rfl
@[simp] theorem addCycles_status (n : Nat) : (addCycles n s).status = s.status := rfl
@[simp] theorem addCycles_image (n : Nat) : (addCycles n s).image = s.image := rfl
@[simp] theorem addCycles_epoch (n : Nat) : (addCycles n s).epoch = s.epoch := rfl

@[simp] theorem noteAccess_regs (a : Addr) (v : Word) : (noteAccess a v s).regs = s.regs := rfl
@[simp] theorem noteAccess_pc (a : Addr) (v : Word) : (noteAccess a v s).pc = s.pc := rfl
@[simp] theorem noteAccess_sp (a : Addr) (v : Word) : (noteAccess a v s).sp = s.sp := rfl
@[simp] theorem noteAccess_carry (a : Addr) (v : Word) : (noteAccess a v s).carry = s.carry := rfl
@[simp] theorem noteAccess_zero (a : Addr) (v : Word) : (noteAccess a v s).zero = s.zero := rfl
@[simp] theorem noteAccess_comparison (a : Addr) (v : Word) : (noteAccess a v s).comparison = s.comparison := rfl
@[simp] theorem noteAccess_priv (a : Addr) (v : Word) : (noteAccess a v s).priv = s.priv := rfl
@[simp] theorem noteAccess_reti (a : Addr) (v : Word) : (noteAccess a v s).reti = s.reti := rfl
@[simp] theorem noteAccess_mem (a : Addr) (v : Word) : (noteAccess a v s).mem = s.mem := rfl
@[simp] theorem noteAccess_lastAccess (a : Addr) (v : Word) : (noteAccess a v s).lastAccess = some (a, v) := rfl
@[simp] theorem noteAccess_scratch (a : Addr) (v : Word) : (noteAccess a v s).scratch = s.scratch := rfl
@[simp] theorem noteAccess_cycles (a : Addr) (v : Word) : (noteAccess a v s).cycles = s.cycles := rfl
@[simp] theorem noteAccess_status (a : Addr) (v : Word) : (noteAccess a v s).status = s.status := rfl
@[simp] theorem noteAccess_image (a : Addr) (v : Word) : (noteAccess a v s).image = s.image := rfl
@[simp] theorem noteAccess_epoch (a : Addr) (v : Word) : (noteAccess a v s).epoch = s.epoch := rfl

@[simp] theorem pokeMem_regs (a : Addr) (v : Word) : (pokeMem a v s).regs = s.regs := rfl
@[simp] theorem pokeMem_pc (a : Addr) (v : Word) : (pokeMem a v s).pc = s.pc := rfl
@[simp] theorem pokeMem_sp (a : Addr) (v : Word) : (pokeMem a v s).sp = s.sp := rfl
@[simp] theorem pokeMem_carry (a : Addr) (v : Word) : (pokeMem a v s).carry = s.carry := rfl
@[simp] theorem pokeMem_zero (a : Addr) (v : Word) : (pokeMem a v s).zero = s.zero := rfl
@[simp] theorem pokeMem_comparison (a : Addr) (v : Word) : (pokeMem a v s).comparison = s.comparison := rfl
@[simp] theorem pokeMem_priv (a : Addr) (v : Word) : (pokeMem a v s).priv = s.priv := rfl
@[simp] theorem pokeMem_reti (a : Addr) (v : Word) : (pokeMem a v s).reti = s.reti := rfl
@[simp] theorem pokeMem_mem (a : Addr) (v : Word) : (pokeMem a v s).mem = Memory.insert s.mem a.toNat v := rfl
@[simp] theorem pokeMem_lastAccess (a : Addr) (v : Word) : (pokeMem a v s).lastAccess = s.lastAccess := rfl
@[simp] theorem pokeMem_scratch (a : Addr) (v : Word) : (pokeMem a v s).scratch = s.scratch := rfl
@[simp] theorem pokeMem_cycles (a : Addr) (v : Word) : (pokeMem a v s).cycles = s.cycles := rfl
@[simp] theorem pokeMem_status (a : Addr) (v : Word) : (pokeMem a v s).status = s.status := rfl
@[simp] theorem pokeMem_image (a : Addr) (v : Word) : (pokeMem a v s).image = s.image := rfl
@[simp] theorem pokeMem_epoch (a : Addr) (v : Word) : (pokeMem a v s).epoch = s.epoch := rfl

@[simp] theorem unpackFlags_regs (w : Word) : (unpackFlags w s).regs = s.regs := rfl
@[simp] theorem unpackFlags_pc (w : Word) : (unpackFlags w s).pc = s.pc := rfl
@[simp] theorem unpackFlags_sp (w : Word) : (unpackFlags w s).sp = s.sp := rfl
@[simp] theorem unpackFlags_carry (w : Word) : (unpackFlags w s).carry = w.getLsbD Config.carryBit := rfl
@[simp] theorem unpackFlags_zero (w : Word) : (unpackFlags w s).zero = w.getLsbD Config.zeroBit := rfl
@[simp] theorem unpackFlags_comparison (w : Word) : (unpackFlags w s).comparison = w.getLsbD Config.comparisonBit := rfl
@[simp] theorem unpackFlags_priv (w : Word) : (unpackFlags w s).priv = s.priv := rfl
@[simp] theorem unpackFlags_reti (w : Word) : (unpackFlags w s).reti = s.reti := rfl
@[simp] theorem unpackFlags_mem (w : Word) : (unpackFlags w s).mem = s.mem := rfl
@[simp] theorem unpackFlags_lastAccess (w : Word) : (unpackFlags w s).lastAccess = s.lastAccess := rfl
@[simp] theorem unpackFlags_scratch (w : Word) : (unpackFlags w s).scratch = s.scratch := rfl
@[simp] theorem unpackFlags_cycles (w : Word) : (unpackFlags w s).cycles = s.cycles := rfl
@[simp] theorem unpackFlags_status (w : Word) : (unpackFlags w s).status = s.status := rfl
@[simp] theorem unpackFlags_image (w : Word) : (unpackFlags w s).image = s.image := rfl
@[simp] theorem unpackFlags_epoch (w : Word) : (unpackFlags w s).epoch = s.epoch := rfl

end Sys2Proof.Machine
end

