-- ==== Sys2Proof/Laws/Memory.lean ====
section
/-! SUPPORT. The laws of memory and of the register file: what a read gives after a write, and that every memory operation
keeps the canonical form. -/

namespace Sys2Proof.Machine

/-! ## The list -/

theorem Memory.lookup_insert (m : Memory) (a b : Nat) (v : Word) :
    Memory.lookup (Memory.insert m a v) b = if a = b then some v else Memory.lookup m b := by
  induction m with
  | nil => simp [Memory.insert, Memory.lookup]
  | cons c rest ih =>
    obtain ⟨k, u⟩ := c
    unfold Memory.insert
    split
    · simp [Memory.lookup]
    · split
      · rename_i _ h
        subst h
        by_cases hb : a = b <;> simp [Memory.lookup, hb]
      · rename_i h1 h2
        by_cases hb : k = b
        · subst hb
          simp [Memory.lookup, h2]
        · simp [Memory.lookup, hb, ih]

/-- Rising from a lower bound is rising with the bound checked on the first address. -/
theorem Memory.risesFrom_cons (low : Option Nat) (c : Cell) (m : Memory) :
    Memory.risesFrom low (c :: m) = true ↔ (∀ b, low = some b → b < c.1) ∧ Memory.risesFrom (some c.1) m = true := by
  obtain ⟨a, v⟩ := c
  cases low <;> simp [Memory.risesFrom]

theorem Memory.risesFrom_insert (m : Memory) (low : Option Nat) (a : Nat) (v : Word)
    (h : Memory.risesFrom low m = true) (ha : ∀ b, low = some b → b < a) :
    Memory.risesFrom low (Memory.insert m a v) = true := by
  induction m generalizing low with
  | nil => exact (Memory.risesFrom_cons _ _ _).2 ⟨ha, rfl⟩
  | cons c rest ih =>
    obtain ⟨k, u⟩ := c
    obtain ⟨hk, hrest⟩ := (Memory.risesFrom_cons _ _ _).1 h
    unfold Memory.insert
    split
    · rename_i hlt
      refine (Memory.risesFrom_cons _ _ _).2 ⟨ha, (Memory.risesFrom_cons _ _ _).2 ⟨?_, hrest⟩⟩
      simpa using hlt
    · split
      · rename_i _ heq
        subst heq
        exact (Memory.risesFrom_cons _ _ _).2 ⟨ha, hrest⟩
      · rename_i h1 h2
        refine (Memory.risesFrom_cons _ _ _).2 ⟨hk, ih _ hrest ?_⟩
        intro b hb
        injection hb with hb
        simp at hb
        omega

theorem Memory.mem_insert {m : Memory} {a : Nat} {v : Word} {c : Cell} (h : c ∈ Memory.insert m a v) :
    c = (a, v) ∨ c ∈ m := by
  induction m with
  | nil => simpa [Memory.insert] using h
  | cons d rest ih =>
    obtain ⟨k, u⟩ := d
    unfold Memory.insert at h
    split at h
    · simpa using h
    · split at h
      · rcases List.mem_cons.1 h with h | h
        · exact .inl h
        · exact .inr (List.mem_cons_of_mem _ h)
      · rcases List.mem_cons.1 h with h | h
        · exact .inr (by simp [h])
        · exact (ih h).imp id (List.mem_cons_of_mem _)

/-- Every store keeps the canonical form. -/
theorem Memory.wf_insert (m : Memory) (a : Addr) (v : Word) (h : Memory.wf m = true) :
    Memory.wf (Memory.insert m a.toNat v) = true := by
  simp only [Memory.wf, Bool.and_eq_true, List.all_eq_true, decide_eq_true_eq] at h ⊢
  refine ⟨Memory.risesFrom_insert _ _ _ _ h.1 (by simp), fun c hc => ?_⟩
  rcases Memory.mem_insert hc with rfl | hc
  · have := a.isLt
    simp only [Config.memWords]
    omega
  · exact h.2 c hc

theorem Memory.mem_ofImage {base : Nat} {image : List Word} {c : Cell} (h : c ∈ Memory.ofImage base image) :
    base ≤ c.1 ∧ c.1 < base + image.length := by
  induction image generalizing base with
  | nil => simp [Memory.ofImage] at h
  | cons w rest ih =>
    rcases List.mem_cons.1 h with rfl | h
    · simp
    · have := ih h
      simp only [List.length_cons]
      omega

theorem Memory.risesFrom_ofImage (image : List Word) (base : Nat) (low : Option Nat) (h : ∀ b, low = some b → b < base) :
    Memory.risesFrom low (Memory.ofImage base image) = true := by
  induction image generalizing base low with
  | nil => simp [Memory.ofImage, Memory.risesFrom]
  | cons w rest ih =>
    refine (Memory.risesFrom_cons _ _ _).2 ⟨h, ih _ _ ?_⟩
    intro b hb
    injection hb with hb
    simp at hb
    omega

/-- The memory of an image that fits is canonical (R280, R281). -/
theorem Memory.wf_ofImage (image : List Word) (h : image.length < Config.memWords) :
    Memory.wf (Memory.ofImage 0 image) = true := by
  simp only [Memory.wf, Bool.and_eq_true, List.all_eq_true, decide_eq_true_eq]
  refine ⟨Memory.risesFrom_ofImage _ _ _ (by simp), fun c hc => ?_⟩
  have := Memory.mem_ofImage hc
  omega

theorem Memory.lookup_ofImage (image : List Word) (base a : Nat) :
    Memory.lookup (Memory.ofImage base image) a = if base ≤ a then image[a - base]? else none := by
  induction image generalizing base with
  | nil => simp [Memory.ofImage, Memory.lookup]
  | cons w rest ih =>
    simp only [Memory.ofImage, Memory.lookup, ih]
    by_cases h1 : base = a
    · subst h1
      simp
    · by_cases h2 : base ≤ a
      · have h3 : base + 1 ≤ a := by omega
        have h4 : a - base = (a - (base + 1)) + 1 := by omega
        simp [h1, h2, h3, h4]
      · have h3 : ¬ base + 1 ≤ a := by omega
        simp [h1, h2, h3]

/-! ## The state's memory: what a read gives -/

theorem peek_pokeMem (s : State) (a b : Addr) (v : Word) :
    peek (pokeMem a v s) b = if a = b then v else peek s b := by
  simp only [peek, pokeMem, Memory.lookup_insert, BitVec.toNat_inj]
  split <;> simp

/-- A word reads as what memory and epoch hold. -/
theorem peek_congr {s t : State} (hm : t.mem = s.mem) (he : t.epoch = s.epoch) (a : Addr) : peek t a = peek s a := by
  simp [peek, hm, he]

@[simp] theorem peek_setReg (i : Reg) (v : Word) (s : State) (a : Addr) : peek (setReg i v s) a = peek s a := rfl
@[simp] theorem peek_setPc (v : Word) (s : State) (a : Addr) : peek (setPc v s) a = peek s a := rfl
@[simp] theorem peek_setSp (v : Word) (s : State) (a : Addr) : peek (setSp v s) a = peek s a := rfl
@[simp] theorem peek_setCarry (b : Bool) (s : State) (a : Addr) : peek (setCarry b s) a = peek s a := rfl
@[simp] theorem peek_setZero (b : Bool) (s : State) (a : Addr) : peek (setZero b s) a = peek s a := rfl
@[simp] theorem peek_setComparison (b : Bool) (s : State) (a : Addr) : peek (setComparison b s) a = peek s a := rfl
@[simp] theorem peek_setPriv (b : Bool) (s : State) (a : Addr) : peek (setPriv b s) a = peek s a := rfl
@[simp] theorem peek_setReti (v : Word) (s : State) (a : Addr) : peek (setReti v s) a = peek s a := rfl
@[simp] theorem peek_setStatus (x : Status) (s : State) (a : Addr) : peek (setStatus x s) a = peek s a := rfl
@[simp] theorem peek_setScratch (x : Scratch) (s : State) (a : Addr) : peek (setScratch x s) a = peek s a := rfl
@[simp] theorem peek_addCycles (n : Nat) (s : State) (a : Addr) : peek (addCycles n s) a = peek s a := rfl
@[simp] theorem peek_noteAccess (b : Addr) (v : Word) (s : State) (a : Addr) : peek (noteAccess b v s) a = peek s a := rfl
@[simp] theorem peek_unpackFlags (w : Word) (s : State) (a : Addr) : peek (unpackFlags w s) a = peek s a := rfl

/-! ## Registers -/

theorem getReg_setReg (i j : Reg) (v : Word) (s : State) :
    getReg (setReg i v s) j = if i = j then v else getReg s j := by
  simp only [getReg, setReg, Vector.getElem_set, BitVec.toNat_inj]

@[simp] theorem getReg_setReg_same (i : Reg) (v : Word) (s : State) : getReg (setReg i v s) i = v := by
  simp [getReg_setReg]

/-- A register reads as what the register file holds. -/
theorem getReg_congr {s t : State} (h : t.regs = s.regs) (i : Reg) : getReg t i = getReg s i := by
  simp [getReg, h]

@[simp] theorem getReg_setPc (v : Word) (s : State) (i : Reg) : getReg (setPc v s) i = getReg s i := rfl
@[simp] theorem getReg_setSp (v : Word) (s : State) (i : Reg) : getReg (setSp v s) i = getReg s i := rfl
@[simp] theorem getReg_setCarry (b : Bool) (s : State) (i : Reg) : getReg (setCarry b s) i = getReg s i := rfl
@[simp] theorem getReg_setZero (b : Bool) (s : State) (i : Reg) : getReg (setZero b s) i = getReg s i := rfl
@[simp] theorem getReg_setComparison (b : Bool) (s : State) (i : Reg) : getReg (setComparison b s) i = getReg s i := rfl
@[simp] theorem getReg_setPriv (b : Bool) (s : State) (i : Reg) : getReg (setPriv b s) i = getReg s i := rfl
@[simp] theorem getReg_setReti (v : Word) (s : State) (i : Reg) : getReg (setReti v s) i = getReg s i := rfl
@[simp] theorem getReg_setStatus (x : Status) (s : State) (i : Reg) : getReg (setStatus x s) i = getReg s i := rfl
@[simp] theorem getReg_setScratch (x : Scratch) (s : State) (i : Reg) : getReg (setScratch x s) i = getReg s i := rfl
@[simp] theorem getReg_addCycles (n : Nat) (s : State) (i : Reg) : getReg (addCycles n s) i = getReg s i := rfl
@[simp] theorem getReg_noteAccess (a : Addr) (v : Word) (s : State) (i : Reg) : getReg (noteAccess a v s) i = getReg s i := rfl
@[simp] theorem getReg_pokeMem (a : Addr) (v : Word) (s : State) (i : Reg) : getReg (pokeMem a v s) i = getReg s i := rfl
@[simp] theorem getReg_unpackFlags (w : Word) (s : State) (i : Reg) : getReg (unpackFlags w s) i = getReg s i := rfl

/-! ## Masked addresses (R51) -/

theorem maskAddr_eq (a : Word) : maskAddr a = a.setWidth 24 := by
  apply BitVec.eq_of_toNat_eq
  have h : BitVec.toNat Config.addrMask = 2 ^ 24 - 1 := by decide
  simp only [maskAddr, BitVec.toNat_setWidth, BitVec.toNat_and, h, Nat.and_two_pow_sub_one_eq_mod, Nat.mod_mod]

theorem maskAddr_toNat (a : Word) : (maskAddr a).toNat = a.toNat % 2 ^ 24 := by
  simp [maskAddr_eq]

/-- An `imm24` names itself (R210: "already below 2^24, so the mask changes nothing"). -/
@[simp] theorem maskAddr_setWidth (a : Imm) : maskAddr (a.setWidth 32) = a := by
  apply BitVec.eq_of_toNat_eq
  have := a.isLt
  rw [maskAddr_toNat, BitVec.toNat_setWidth]
  omega

end Sys2Proof.Machine
end

