-- ==== Sys2Proof/Laws/Ops.lean ====
section
/-! SUPPORT. What each shared operation over memory, the stack and the trap can do, said once. -/

namespace Sys2Proof.Machine

/-! ## The memory interface -/

theorem memRead_value (a : Word) (s : State) : (memRead a s).1 = peek s (maskAddr a) := rfl

theorem memRead_state (a : Word) (s : State) : (memRead a s).2 = noteAccess (maskAddr a) (peek s (maskAddr a)) s := rfl

theorem peek_memRead (a : Word) (s : State) (b : Addr) : peek (memRead a s).2 b = peek s b := rfl

theorem peek_memWrite (a v : Word) (s : State) (b : Addr) :
    peek (memWrite a v s) b = if maskAddr a = b then v else peek s b := by
  simp [memWrite, peek_pokeMem]

theorem memWrite_lastAccess (a v : Word) (s : State) : (memWrite a v s).lastAccess = some (maskAddr a, v) := rfl

theorem getReg_memWrite (a v : Word) (s : State) (i : Reg) : getReg (memWrite a v s) i = getReg s i := rfl

/-- A write changes memory and the last access only. -/
theorem memWrite_eq (a v : Word) (s : State) :
    memWrite a v s =
      { s with mem := Memory.insert s.mem (maskAddr a).toNat v, lastAccess := some (maskAddr a, v) } := rfl

theorem memWrite_wf (a v : Word) (s : State) (h : Memory.wf s.mem = true) : Memory.wf (memWrite a v s).mem = true :=
  Memory.wf_insert _ _ _ h

/-! ## The stack -/

/-- A push moves `sp` down one word, stores there, and changes nothing else but the last access. -/
theorem pushWord_eq (v : Word) (s : State) :
    pushWord v s = { s with sp := s.sp - 1, mem := Memory.insert s.mem (maskAddr (s.sp - 1)).toNat v,
                            lastAccess := some (maskAddr (s.sp - 1), v) } := rfl

theorem peek_pushWord (v : Word) (s : State) (b : Addr) :
    peek (pushWord v s) b = if maskAddr (s.sp - 1) = b then v else peek s b := by
  simp [pushWord, peek_memWrite]

theorem getReg_pushWord (v : Word) (s : State) (i : Reg) : getReg (pushWord v s) i = getReg s i := rfl

theorem pushWord_wf (v : Word) (s : State) (h : Memory.wf s.mem = true) : Memory.wf (pushWord v s).mem = true :=
  Memory.wf_insert _ _ _ h

theorem popWord_value (s : State) : (popWord s).1 = peek s (maskAddr s.sp) := rfl

/-- A pop moves `sp` up one word and changes nothing else but the last access. -/
theorem popWord_state (s : State) :
    (popWord s).2 = { s with sp := s.sp + 1, lastAccess := some (maskAddr s.sp, peek s (maskAddr s.sp)) } := rfl

theorem peek_popWord (s : State) (b : Addr) : peek (popWord s).2 b = peek s b := rfl

theorem getReg_popWord (s : State) (i : Reg) : getReg (popWord s).2 i = getReg s i := rfl

/-- A word pushed is the word popped, and `sp` is back (R224). -/
theorem popWord_pushWord_value (v : Word) (s : State) : (popWord (pushWord v s)).1 = v := by
  have h : (pushWord v s).sp = s.sp - 1 := rfl
  rw [popWord_value, peek_pushWord, h, if_pos rfl]

/-! ## The flags word (R12) -/

theorem flagsWord_bits (s : State) :
    (flagsWord s).getLsbD 0 = s.carry ∧ (flagsWord s).getLsbD 1 = s.zero ∧ (flagsWord s).getLsbD 2 = s.comparison := by
  unfold flagsWord
  cases s.carry <;> cases s.zero <;> cases s.comparison <;> decide

/-- Unpacking a packed flags word gives the three flags back. -/
theorem unpackFlags_flagsWord (s t : State) :
    unpackFlags (flagsWord s) t = { t with carry := s.carry, zero := s.zero, comparison := s.comparison } := by
  obtain ⟨h0, h1, h2⟩ := flagsWord_bits s
  simp only [unpackFlags, Config.carryBit, Config.zeroBit, Config.comparisonBit, h0, h1, h2]

/-! ## The trap -/

/-- The word SYSCALL loads into `pc`: the vector cell as it stands after the flags word was pushed (R240). -/
theorem enterSyscall_pc (arg : Imm) (s : State) :
    (enterSyscall arg s).pc =
      if maskAddr (s.sp - 1) = maskAddr Config.vectorAddr then flagsWord s else peek s (maskAddr Config.vectorAddr) := by
  show peek (pushWord (flagsWord (setReti s.pc s)) (setReti s.pc s)) (maskAddr Config.vectorAddr) = _
  rw [peek_pushWord]
  rfl

/-- Every register SYSCALL changes but `pc`. -/
theorem enterSyscall_saves (arg : Imm) (s : State) :
    (enterSyscall arg s).reti = s.pc ∧ (enterSyscall arg s).sp = s.sp - 1 ∧ (enterSyscall arg s).priv = true :=
  ⟨rfl, rfl, rfl⟩

/-- The memory SYSCALL leaves: the argument cell written last, the flags word under the old top of the stack. -/
theorem peek_enterSyscall (arg : Imm) (s : State) (b : Addr) :
    peek (enterSyscall arg s) b =
      if maskAddr Config.argAddr = b then arg.setWidth 32
      else if maskAddr (s.sp - 1) = b then flagsWord s else peek s b := by
  show peek (memWrite Config.argAddr (arg.setWidth 32) (setPc _ (memRead _ (setPriv true (pushWord (flagsWord (setReti s.pc s)) (setReti s.pc s)))).2)) b = _
  rw [peek_memWrite]
  split
  · rfl
  · show peek (pushWord (flagsWord (setReti s.pc s)) (setReti s.pc s)) b = _
    rw [peek_pushWord]
    rfl

/-- What RETI leaves. -/
theorem leaveSyscall_eq (s : State) :
    leaveSyscall s =
      { unpackFlags (peek s (maskAddr s.sp)) s with
        pc := s.reti, priv := false, sp := s.sp + 1, lastAccess := some (maskAddr s.sp, peek s (maskAddr s.sp)) } := rfl

/-! ## The cost (R115) -/

/-- Every class costs at most three cycles beyond the fetch. -/
theorem classCost_le (opc : BitVec 4) : classCost opc ≤ 3 := by
  have := (Config.openCost opc).isLt
  unfold classCost
  split <;> omega

end Sys2Proof.Machine
end

