-- ==== Sys2Proof/Laws/Step.lean ====
section
/-! SUPPORT. What the fetch and a step can do, said once. -/

namespace Sys2Proof.Machine

theorem fetchedWord_eq (s : State) : fetchedWord s = peek s (maskAddr s.pc) := rfl

/-- The state an instruction runs in (R104 to R107). -/
theorem afterFetch_eq (s : State) :
    afterFetch s =
      { s with pc := s.pc + 1, lastAccess := some (maskAddr s.pc, fetchedWord s),
               scratch := scratchOf (fetchedWord s), status := .ok } := rfl

@[simp] theorem getReg_afterFetch (s : State) (i : Reg) : getReg (afterFetch s) i = getReg s i := rfl

@[simp] theorem peek_afterFetch (s : State) (a : Addr) : peek (afterFetch s) a = peek s a := rfl

@[simp] theorem getReg_account (w : Word) (s : State) (i : Reg) : getReg (account w s) i = getReg s i := rfl

@[simp] theorem peek_account (w : Word) (s : State) (a : Addr) : peek (account w s) a = peek s a := rfl

/-- A step that answers a next state: where it fetched, what it ran, and what it left. -/
theorem step_next_iff (s t : State) :
    step s = .next t ↔
      s.pc.toNat < Config.memWords ∧
        ∃ i u, decode (fetchedWord s) = .ok i ∧ exec i (afterFetch s) = .next u ∧ t = account (fetchedWord s) u := by
  unfold step pcOutOfRange
  by_cases hpc : Config.memWords ≤ s.pc.toNat
  · simp [hpc]
  · have hlt : s.pc.toNat < Config.memWords := by omega
    simp only [hpc, decide_false, hlt, true_and, Bool.false_eq_true, if_false]
    cases hd : decode (fetchedWord s) with
    | error e => cases e; simp
    | ok i =>
      simp only [Except.ok.injEq]
      cases he : exec i (afterFetch s) with
      | next u =>
        constructor
        · intro h
          injection h with h
          exact ⟨i, u, rfl, he, h.symm⟩
        · rintro ⟨_, v, rfl, hv, rfl⟩
          rw [he] at hv
          injection hv with hv
          subst hv
          rfl
      | fault r => simp [he]
      | refused r => simp [he]

/-- A step runs the decoded instruction on the fetched state. -/
theorem step_of_decode {s : State} {i : Instr} {u : State} (hpc : s.pc.toNat < Config.memWords)
    (hd : decode (fetchedWord s) = .ok i) (he : exec i (afterFetch s) = .next u) :
    step s = .next (account (fetchedWord s) u) :=
  (step_next_iff s _).2 ⟨hpc, i, u, hd, he, rfl⟩

end Sys2Proof.Machine
end

