-- ==== Sys2Proof/Laws/Meanings.lean ====
section
/-! SUPPORT. What the meanings share, said once: every meaning answers a next state, a step by the instruction it ran, the
frame of class 1, the two outcomes of a jump, and the masked addresses the trap and the stack use. -/

namespace Sys2Proof.Machine

/-- No meaning faults or refuses. -/
theorem exec_next (i : Instr) (s : State) : ∃ t, exec i s = .next t := by
  cases i <;> exact ⟨_, rfl⟩

/-- A step that answers a next state, by the fields of the word it fetched. -/
theorem step_cases {s t : State} (h : step s = .next t) :
    s.pc.toNat < Config.memWords ∧
      ∃ i u, DecodesTo (fetchedWord s) i ∧ exec i (afterFetch s) = .next u ∧ t = account (fetchedWord s) u := by
  obtain ⟨hp, i, u, hd, he, ht⟩ := (step_next_iff s t).1 h
  exact ⟨hp, i, u, decode_shape hd, he, ht⟩

/-! ## Class 1 (R140) -/

theorem getReg_aluFinish (dr : Reg) (r : Word) (s : State) : getReg (aluFinish dr r s) dr = r := by
  simp [aluFinish]

theorem aluFinish_zero (dr : Reg) (r : Word) (s : State) : (aluFinish dr r s).zero = true ↔ r = 0 := by
  simp [aluFinish, isZero]

/-- A class-1 instruction changes its destination and `Z`. -/
theorem aluFinish_frame (dr : Reg) (r : Word) (s : State) :
    Frame { dest := some dr, zero := true } s (aluFinish dr r s) := by
  refine ⟨fun i hi => ?_, fun _ => rfl, fun _ => rfl, fun _ => rfl, by simp, fun _ => rfl, fun _ => rfl, fun _ => rfl,
    fun _ _ => rfl, fun _ => rfl, fun _ => rfl, rfl, rfl, rfl, rfl⟩
  have hne : dr ≠ i := fun h => hi (by rw [h])
  simp [aluFinish, getReg_setReg, hne]

/-- The amount of a shift or rotate (R158). -/
theorem shiftAmount_eq (b : Word) : shiftAmount b = b.toNat % 32 := by
  have h : BitVec.toNat Config.shiftMask = 2 ^ 5 - 1 := by decide
  simp only [shiftAmount, BitVec.toNat_and, h, Nat.and_two_pow_sub_one_eq_mod]

/-- The carry of ADD (R141). -/
theorem addCarry_iff (a b r : Word) : addCarry a b r = true ↔ r.toNat < a.toNat ∨ r.toNat < b.toNat := by
  simp [addCarry]

/-! ## Class 2 (R171 to R176) -/

theorem relGt_iff (a b : Word) : relGt a b = true ↔ a.toNat > b.toNat := by simp [relGt]
theorem relEq_iff (a b : Word) : relEq a b = true ↔ a.toNat = b.toNat := by simp [relEq, BitVec.toNat_inj]
theorem relLt_iff (a b : Word) : relLt a b = true ↔ a.toNat < b.toNat := by simp [relLt]
theorem relGe_iff (a b : Word) : relGe a b = true ↔ a.toNat ≥ b.toNat := by simp [relGe]
theorem relLe_iff (a b : Word) : relLe a b = true ↔ a.toNat ≤ b.toNat := by simp [relLe]
theorem relNever_iff (a b : Word) : relNever a b = true ↔ False := by simp [relNever]

/-! ## Class 3 (R180) -/

/-- A jump leaves the state as it is or sets `pc`. -/
theorem jumpIf_cases (c : Bool) (target : Word) (s : State) :
    jumpIf c target s = s ∨ jumpIf c target s = setPc target s := by
  unfold jumpIf
  split <;> simp

theorem jumpIf_pc (c : Bool) (target : Word) (s : State) : (jumpIf c target s).pc = if c then target else s.pc := by
  unfold jumpIf
  split <;> rfl

/-! ## Addresses -/

theorem maskAddr_vectorAddr : maskAddr Config.vectorAddr = 0x40 := by decide

theorem maskAddr_argAddr : maskAddr Config.argAddr = 0x41 := by decide

theorem maskAddr_absoluteAddr (a : Imm) : maskAddr (absoluteAddr a) = a := maskAddr_setWidth a

/-- A value masked by `ADDR_MASK` is its low 24 bits. -/
theorem and_addrMask_toNat (a : Word) : (a &&& Config.addrMask).toNat = a.toNat % 2 ^ 24 := by
  have h : BitVec.toNat Config.addrMask = 2 ^ 24 - 1 := by decide
  simp only [BitVec.toNat_and, h, Nat.and_two_pow_sub_one_eq_mod]

/-- The two words of a call's frame are at different addresses (R230). -/
theorem maskAddr_sub_two_ne (a : Word) : maskAddr (a - 1 - 1) ≠ maskAddr (a - 1) := by
  intro h
  have h0 := congrArg BitVec.toNat h
  rw [maskAddr_toNat, maskAddr_toNat] at h0
  have h1 : (a - 1 - 1 : Word).toNat = (a.toNat + 2 ^ 32 - 2) % 2 ^ 32 := by bv_omega
  have h2 : (a - 1 : Word).toNat = (a.toNat + 2 ^ 32 - 1) % 2 ^ 32 := by bv_omega
  omega

end Sys2Proof.Machine
end

