-- ==== Sys2Proof/Laws/PerInstr.lean ====
section
/-! SUPPORT. Statements for all instructions, made per instruction. Family `OpcodeClass`: the canonical word of an
instruction has the class of its row in spec/opcode_table.json (R78, R89). -/

namespace Sys2Proof.Laws.OpcodeClass

/-- The class of the first row of the opcode table with a mnemonic. -/
def tableClass (m : Mnemonic) : Option (BitVec 4) :=
  (opcodeTable.find? fun r => r.mnemonic == m).map fun r => opcOf r.pattern

/-- The canonical word's `opc` is that of the instruction's row, whatever the operands. -/
def Statement (i : Instr) : Prop := tableClass i.mnemonic = some (opcOf (encode i))

theorem opcOf_encodeR (opc : BitVec 4) (dr sr1 sr2 : Reg) (fn : BitVec 4) : opcOf (encodeR opc dr sr1 sr2 fn) = opc := by
  simp [encodeR, opcOf, field_or, field_put_same, field_put_apart, layout]

theorem opcOf_encodeI (opc : BitVec 4) (dr : Reg) (imm24 : Imm) : opcOf (encodeI opc dr imm24) = opc := by
  simp [encodeI, opcOf, field_or, field_put_same, field_put_apart, layout]

theorem opcOf_encodeT (opc : BitVec 4) (s : BitVec 1) (imm24 : Imm) : opcOf (encodeT opc s imm24) = opc := by
  simp [encodeT, opcOf, field_or, field_put_same, field_put_apart, layout]

theorem opcOf_encodeJ (jc : BitVec 3) (imm24 : Imm) : opcOf (encodeJ jc imm24) = 3 := by
  simp [encodeJ, opcOf, field_or, field_put_same, field_put_apart, layout]

theorem opcOf_encodeJR (jc : BitVec 3) (sr2 : Reg) : opcOf (encodeJR jc sr2) = 3 := by
  simp [encodeJR, opcOf, field_or, field_put_same, field_put_apart, layout]

theorem opcOf_encodeK (dr sr1 : Reg) (sop : BitVec 2) : opcOf (encodeK dr sr1 sop) = 12 := by
  simp [encodeK, opcOf, field_or, field_put_same, field_put_apart, layout]

theorem nop : Statement .nop :=
  congrArg some (opcOf_encodeT _ _ _).symm

theorem add (dr : Reg) (sr1 : Reg) (sr2 : Reg) : Statement (.add dr sr1 sr2) :=
  congrArg some (opcOf_encodeR _ _ _ _ _).symm

theorem sub (dr : Reg) (sr1 : Reg) (sr2 : Reg) : Statement (.sub dr sr1 sr2) :=
  congrArg some (opcOf_encodeR _ _ _ _ _).symm

theorem mul (dr : Reg) (sr1 : Reg) (sr2 : Reg) : Statement (.mul dr sr1 sr2) :=
  congrArg some (opcOf_encodeR _ _ _ _ _).symm

theorem neg (dr : Reg) (sr1 : Reg) : Statement (.neg dr sr1) :=
  congrArg some (opcOf_encodeR _ _ _ _ _).symm

theorem and (dr : Reg) (sr1 : Reg) (sr2 : Reg) : Statement (.and dr sr1 sr2) :=
  congrArg some (opcOf_encodeR _ _ _ _ _).symm

theorem or (dr : Reg) (sr1 : Reg) (sr2 : Reg) : Statement (.or dr sr1 sr2) :=
  congrArg some (opcOf_encodeR _ _ _ _ _).symm

theorem not (dr : Reg) (sr1 : Reg) : Statement (.not dr sr1) :=
  congrArg some (opcOf_encodeR _ _ _ _ _).symm

theorem nand (dr : Reg) (sr1 : Reg) (sr2 : Reg) : Statement (.nand dr sr1 sr2) :=
  congrArg some (opcOf_encodeR _ _ _ _ _).symm

theorem xor (dr : Reg) (sr1 : Reg) (sr2 : Reg) : Statement (.xor dr sr1 sr2) :=
  congrArg some (opcOf_encodeR _ _ _ _ _).symm

theorem xnor (dr : Reg) (sr1 : Reg) (sr2 : Reg) : Statement (.xnor dr sr1 sr2) :=
  congrArg some (opcOf_encodeR _ _ _ _ _).symm

theorem shl (dr : Reg) (sr1 : Reg) (sr2 : Reg) : Statement (.shl dr sr1 sr2) :=
  congrArg some (opcOf_encodeR _ _ _ _ _).symm

theorem shr (dr : Reg) (sr1 : Reg) (sr2 : Reg) : Statement (.shr dr sr1 sr2) :=
  congrArg some (opcOf_encodeR _ _ _ _ _).symm

theorem asr (dr : Reg) (sr1 : Reg) (sr2 : Reg) : Statement (.asr dr sr1 sr2) :=
  congrArg some (opcOf_encodeR _ _ _ _ _).symm

theorem rol (dr : Reg) (sr1 : Reg) (sr2 : Reg) : Statement (.rol dr sr1 sr2) :=
  congrArg some (opcOf_encodeR _ _ _ _ _).symm

theorem ror (dr : Reg) (sr1 : Reg) (sr2 : Reg) : Statement (.ror dr sr1 sr2) :=
  congrArg some (opcOf_encodeR _ _ _ _ _).symm

theorem zero (dr : Reg) : Statement (.zero dr) :=
  congrArg some (opcOf_encodeR _ _ _ _ _).symm

theorem cmpgt (sr1 : Reg) (sr2 : Reg) : Statement (.cmpgt sr1 sr2) :=
  congrArg some (opcOf_encodeR _ _ _ _ _).symm

theorem cmpeq (sr1 : Reg) (sr2 : Reg) : Statement (.cmpeq sr1 sr2) :=
  congrArg some (opcOf_encodeR _ _ _ _ _).symm

theorem cmplt (sr1 : Reg) (sr2 : Reg) : Statement (.cmplt sr1 sr2) :=
  congrArg some (opcOf_encodeR _ _ _ _ _).symm

theorem cmpge (sr1 : Reg) (sr2 : Reg) : Statement (.cmpge sr1 sr2) :=
  congrArg some (opcOf_encodeR _ _ _ _ _).symm

theorem cmple (sr1 : Reg) (sr2 : Reg) : Statement (.cmple sr1 sr2) :=
  congrArg some (opcOf_encodeR _ _ _ _ _).symm

theorem cmpnv (fn : BitVec 4) (sr1 : Reg) (sr2 : Reg) : Statement (.cmpnv fn sr1 sr2) :=
  congrArg some (opcOf_encodeR _ _ _ _ _).symm

theorem jmp (imm24 : Imm) : Statement (.jmp imm24) :=
  congrArg some (opcOf_encodeJ _ _).symm

theorem jc (imm24 : Imm) : Statement (.jc imm24) :=
  congrArg some (opcOf_encodeJ _ _).symm

theorem jnc (imm24 : Imm) : Statement (.jnc imm24) :=
  congrArg some (opcOf_encodeJ _ _).symm

theorem jcmp (imm24 : Imm) : Statement (.jcmp imm24) :=
  congrArg some (opcOf_encodeJ _ _).symm

theorem jncmp (imm24 : Imm) : Statement (.jncmp imm24) :=
  congrArg some (opcOf_encodeJ _ _).symm

theorem jz (imm24 : Imm) : Statement (.jz imm24) :=
  congrArg some (opcOf_encodeJ _ _).symm

theorem jnz (imm24 : Imm) : Statement (.jnz imm24) :=
  congrArg some (opcOf_encodeJ _ _).symm

theorem jmpa (imm24 : Imm) : Statement (.jmpa imm24) :=
  congrArg some (opcOf_encodeJ _ _).symm

theorem jmpr (sr2 : Reg) : Statement (.jmpr sr2) :=
  congrArg some (opcOf_encodeJR _ _).symm

theorem jcr (sr2 : Reg) : Statement (.jcr sr2) :=
  congrArg some (opcOf_encodeJR _ _).symm

theorem jncr (sr2 : Reg) : Statement (.jncr sr2) :=
  congrArg some (opcOf_encodeJR _ _).symm

theorem jcmpr (sr2 : Reg) : Statement (.jcmpr sr2) :=
  congrArg some (opcOf_encodeJR _ _).symm

theorem jncmpr (sr2 : Reg) : Statement (.jncmpr sr2) :=
  congrArg some (opcOf_encodeJR _ _).symm

theorem jzr (sr2 : Reg) : Statement (.jzr sr2) :=
  congrArg some (opcOf_encodeJR _ _).symm

theorem jnzr (sr2 : Reg) : Statement (.jnzr sr2) :=
  congrArg some (opcOf_encodeJR _ _).symm

theorem jmpar (sr2 : Reg) : Statement (.jmpar sr2) :=
  congrArg some (opcOf_encodeJR _ _).symm

theorem loadAbs (dr : Reg) (imm24 : Imm) : Statement (.loadAbs dr imm24) :=
  congrArg some (opcOf_encodeI _ _ _).symm

theorem loadInd (dr : Reg) (sr2 : Reg) : Statement (.loadInd dr sr2) :=
  congrArg some (opcOf_encodeR _ _ _ _ _).symm

theorem loadImm (dr : Reg) (imm24 : Imm) : Statement (.loadImm dr imm24) :=
  congrArg some (opcOf_encodeI _ _ _).symm

theorem storeAbs (sr1 : Reg) (imm24 : Imm) : Statement (.storeAbs sr1 imm24) :=
  congrArg some (opcOf_encodeI _ _ _).symm

theorem storeInd (sr1 : Reg) (sr2 : Reg) : Statement (.storeInd sr1 sr2) :=
  congrArg some (opcOf_encodeR _ _ _ _ _).symm

theorem mov (dr : Reg) (sr1 : Reg) : Statement (.mov dr sr1) :=
  congrArg some (opcOf_encodeR _ _ _ _ _).symm

theorem rsv10 : Statement .rsv10 :=
  congrArg some (opcOf_encodeT _ _ _).symm

theorem rsv11 : Statement .rsv11 :=
  congrArg some (opcOf_encodeT _ _ _).symm

theorem push (sr1 : Reg) : Statement (.push sr1) :=
  congrArg some (opcOf_encodeK _ _ _).symm

theorem pop (dr : Reg) : Statement (.pop dr) :=
  congrArg some (opcOf_encodeK _ _ _).symm

theorem peek (dr : Reg) : Statement (.peek dr) :=
  congrArg some (opcOf_encodeK _ _ _).symm

theorem szero (dr : Reg) : Statement (.szero dr) :=
  congrArg some (opcOf_encodeK _ _ _).symm

theorem call (imm24 : Imm) : Statement (.call imm24) :=
  congrArg some (opcOf_encodeT _ _ _).symm

theorem ret : Statement .ret :=
  congrArg some (opcOf_encodeT _ _ _).symm

theorem syscall (imm24 : Imm) : Statement (.syscall imm24) :=
  congrArg some (opcOf_encodeT _ _ _).symm

theorem reti : Statement .reti :=
  congrArg some (opcOf_encodeT _ _ _).symm

theorem halt : Statement .halt :=
  congrArg some (opcOf_encodeT _ _ _).symm

end Sys2Proof.Laws.OpcodeClass
end

