-- ==== Sys2Proof/Tests/Slice0.lean ====
section
/-! SUPPORT. Our own tests: the refusals of WellFormed, decoding by words written out from the spec, one-step vectors of
spec/95_test_vectors.md, and a witness for every obligation that has hypotheses. -/

namespace Sys2Proof.Tests

open Sys2Proof.Machine Sys2Proof.Claims

/-! ## WellFormed: an ill-formed term for each check (R77, R80, R90) -/

theorem test_wellFormed_refuses_cmpnv_selector : (Instr.cmpnv 4 1 2).wellFormed = false := by decide

theorem test_wellFormed_refuses_store_source : (Instr.storeAbs 2 0x100010).wellFormed = false := by decide

theorem test_assembler_refuses :
    assemble ⟨.storeAbs, [.absolute 0x100010, .reg 2]⟩ = .error .wrongSource ∧
    assemble ⟨.mov, [.reg 16, .reg 0]⟩ = .error (.badRegister 16) ∧
    assemble ⟨.jmp, [.number 0x1000000]⟩ = .error (.badImmediate 0x1000000) ∧
    assemble ⟨.push, [.number 1]⟩ = .error .badOperands := by decide

/-- R87's spelling of W1's program (95_test_vectors.md). -/
theorem test_listing :
    (assemble ⟨.add, [.reg 0, .reg 1, .reg 2]⟩ = .ok 0x10120000) ∧
    lineText ⟨.add, [.reg 0, .reg 1, .reg 2]⟩ = "ADD R0, R1, R2" ∧
    lineText ⟨.storeAbs, [.absolute 16, .reg 0]⟩ = "STORE_ABS [16], R0" := by decide

/-! ## Decoding: words written out from rules R72, R73 and R89, bit fields left to right, for every constructor -/

theorem test_decode_inert :
    decode 0b0000_0000_0000_0000_0000_0000_0000_0000 = .ok .nop ∧
    decode 0b1010_0000_0000_0000_0000_0000_0000_0000 = .ok .rsv10 ∧
    decode 0b1011_0000_0000_0000_0000_0000_0000_0000 = .ok .rsv11 ∧
    decode 0b1111_0000_0000_0000_0000_0000_0000_0000 = .ok .halt := by decide

theorem test_decode_alu :
    decode 0b0001_0011_0101_1001_0000_0000_0000_0000 = .ok (.add 3 5 9) ∧
    decode 0b0001_0011_0101_1001_0000_0000_0000_0001 = .ok (.sub 3 5 9) ∧
    decode 0b0001_0011_0101_1001_0000_0000_0000_0010 = .ok (.mul 3 5 9) ∧
    decode 0b0001_0011_0101_0000_0000_0000_0000_0011 = .ok (.neg 3 5) ∧
    decode 0b0001_0011_0101_1001_0000_0000_0000_0100 = .ok (.and 3 5 9) ∧
    decode 0b0001_0011_0101_1001_0000_0000_0000_0101 = .ok (.or 3 5 9) ∧
    decode 0b0001_0011_0101_0000_0000_0000_0000_0110 = .ok (.not 3 5) ∧
    decode 0b0001_0011_0101_1001_0000_0000_0000_0111 = .ok (.nand 3 5 9) ∧
    decode 0b0001_0011_0101_1001_0000_0000_0000_1000 = .ok (.xor 3 5 9) ∧
    decode 0b0001_0011_0101_1001_0000_0000_0000_1001 = .ok (.xnor 3 5 9) ∧
    decode 0b0001_0011_0101_1001_0000_0000_0000_1010 = .ok (.shl 3 5 9) ∧
    decode 0b0001_0011_0101_1001_0000_0000_0000_1011 = .ok (.shr 3 5 9) ∧
    decode 0b0001_0011_0101_1001_0000_0000_0000_1100 = .ok (.asr 3 5 9) ∧
    decode 0b0001_0011_0101_1001_0000_0000_0000_1101 = .ok (.rol 3 5 9) ∧
    decode 0b0001_0011_0101_1001_0000_0000_0000_1110 = .ok (.ror 3 5 9) ∧
    decode 0b0001_0011_0000_0000_0000_0000_0000_1111 = .ok (.zero 3) := by decide

theorem test_decode_compare :
    decode 0b0010_0000_0101_1001_0000_0000_0000_0000 = .ok (.cmpgt 5 9) ∧
    decode 0b0010_0000_0101_1001_0000_0000_0000_0001 = .ok (.cmpeq 5 9) ∧
    decode 0b0010_0000_0101_1001_0000_0000_0000_0010 = .ok (.cmplt 5 9) ∧
    decode 0b0010_0000_0101_1001_0000_0000_0000_0011 = .ok (.cmpge 5 9) ∧
    decode 0b0010_0000_0101_1001_0000_0000_0000_0100 = .ok (.cmple 5 9) ∧
    decode 0b0010_0000_0101_1001_0000_0000_0000_0101 = .ok (.cmpnv 5 5 9) ∧
    decode 0b0010_0000_0101_1001_0000_0000_0000_1111 = .ok (.cmpnv 15 5 9) := by decide

theorem test_decode_jump_immediate :
    decode 0b0011_0000_1000_0000_0000_0000_0001_0000 = .ok (.jmp 0x800010) ∧
    decode 0b0011_0001_1000_0000_0000_0000_0001_0000 = .ok (.jc 0x800010) ∧
    decode 0b0011_0010_1000_0000_0000_0000_0001_0000 = .ok (.jnc 0x800010) ∧
    decode 0b0011_0011_1000_0000_0000_0000_0001_0000 = .ok (.jcmp 0x800010) ∧
    decode 0b0011_0100_1000_0000_0000_0000_0001_0000 = .ok (.jncmp 0x800010) ∧
    decode 0b0011_0101_1000_0000_0000_0000_0001_0000 = .ok (.jz 0x800010) ∧
    decode 0b0011_0110_1000_0000_0000_0000_0001_0000 = .ok (.jnz 0x800010) ∧
    decode 0b0011_0111_1000_0000_0000_0000_0001_0000 = .ok (.jmpa 0x800010) := by decide

theorem test_decode_jump_register :
    decode 0b0011_1000_0000_1001_0000_0000_0000_0000 = .ok (.jmpr 9) ∧
    decode 0b0011_1001_0000_1001_0000_0000_0000_0000 = .ok (.jcr 9) ∧
    decode 0b0011_1010_0000_1001_0000_0000_0000_0000 = .ok (.jncr 9) ∧
    decode 0b0011_1011_0000_1001_0000_0000_0000_0000 = .ok (.jcmpr 9) ∧
    decode 0b0011_1100_0000_1001_0000_0000_0000_0000 = .ok (.jncmpr 9) ∧
    decode 0b0011_1101_0000_1001_0000_0000_0000_0000 = .ok (.jzr 9) ∧
    decode 0b0011_1110_0000_1001_0000_0000_0000_0000 = .ok (.jnzr 9) ∧
    decode 0b0011_1111_0000_1001_0000_0000_0000_0000 = .ok (.jmpar 9) := by decide

theorem test_decode_load_store_move :
    decode 0b0100_0011_1000_0000_0000_0000_0001_0000 = .ok (.loadAbs 3 0x800010) ∧
    decode 0b0101_0011_0000_1001_0000_0000_0000_0000 = .ok (.loadInd 3 9) ∧
    decode 0b0110_0011_1000_0000_0000_0000_0001_0000 = .ok (.loadImm 3 0x800010) ∧
    decode 0b0111_0000_0101_0000_0000_0000_0001_0000 = .ok (.storeAbs 5 0x500010) ∧
    decode 0b1000_0000_0101_1001_0000_0000_0000_0000 = .ok (.storeInd 5 9) ∧
    decode 0b1001_0011_0101_0000_0000_0000_0000_0000 = .ok (.mov 3 5) := by decide

theorem test_decode_stack_call_trap :
    decode 0b1100_0000_0101_0000_0000_0000_0000_0000 = .ok (.push 5) ∧
    decode 0b1100_0011_0000_0000_0000_0000_0000_0001 = .ok (.pop 3) ∧
    decode 0b1100_0011_0000_0000_0000_0000_0000_0010 = .ok (.peek 3) ∧
    decode 0b1100_0011_0000_0000_0000_0000_0000_0011 = .ok (.szero 3) ∧
    decode 0b1101_0000_1000_0000_0000_0000_0001_0000 = .ok (.call 0x800010) ∧
    decode 0b1101_0001_0000_0000_0000_0000_0000_0000 = .ok .ret ∧
    decode 0b1110_0000_1000_0000_0000_0000_0001_0000 = .ok (.syscall 0x800010) ∧
    decode 0b1110_0001_0000_0000_0000_0000_0000_0000 = .ok .reti := by decide

/-! ## The parameters of R7 agree with one another -/

theorem test_parameters :
    Config.memWords = 2 ^ Config.addrBits ∧ Config.addrMask.toNat = Config.memWords - 1 ∧ Config.nregs = 2 ^ 4 ∧
    Config.xlen = 32 ∧ Config.immBits = 24 ∧ Config.pcBits = 32 := by decide

/-! ## The host's two entry points -/

theorem test_decodeTableWord :
    decodeTableWord 32 0x10120000 = some (.add 0 1 2) ∧ decodeTableWord 33 0 = none ∧
    decodeTableWord 8 0x100 = none := by decide

/-- A word placed where the machine fetches is the word the next step runs, from reset and from a `pc` beyond memory. -/
theorem test_withFetchWord :
    ((match step (State.reset.withFetchWord 32 0x61000005) with | .next t => some (getReg t 1, t.pc) | _ => none) =
      some (5, 1)) ∧
    ((match step (State.withFetchWord { State.reset with pc := 0x1000002 } 32 0x61000005) with
      | .next t => some (getReg t 1, t.pc)
      | _ => none) = some (5, 3)) := by decide

/-- The spec's reset operation leaves the state after construction as it is (R282). -/
theorem test_reset_operation_of_reset : hostReset State.reset = State.reset := by decide

/-- The memory of the state after reset is canonical. -/
theorem reset_memory_canonical : Memory.wf State.reset.mem = true := by decide

/-- The rows of the opcode table overlap nowhere: of two rows, some bit both fix is 1 in one and 0 in the other. -/
theorem opcode_rows_disjoint :
    opcodeTable.Pairwise fun r q => (r.pattern ^^^ q.pattern) &&& (r.mask &&& q.mask) ≠ 0 := by decide

/-! ## One-step vectors of spec/95_test_vectors.md (its ids in the names) -/

/-- The three flags, in the order of R12. -/
structure Flags3 where
  c : Bool
  z : Bool
  q : Bool
  deriving DecidableEq, Repr

/-- The start of a vector of 95_test_vectors.md: everything not listed is 0 or false. -/
def vector (pc sp : Word) (f : Flags3) (regs : List (Nat × Word)) (mem : Memory) : State :=
  regs.foldl (fun s r => setReg (BitVec.ofNat 4 r.1) r.2 s)
    { State.reset with pc := pc, sp := sp, carry := f.c, zero := f.z, comparison := f.q, mem := mem }

/-- What a vector's end lists. -/
structure Seen where
  regs : List Word
  pc : Word
  sp : Word
  flags : Flags3
  mem : List Word
  lastAccess : Addr × Word
  deriving DecidableEq, Repr

/-- One step, seen through some registers and some memory words. -/
def seen (regs : List Reg) (addrs : List Addr) (s : State) : Option Seen :=
  match step s with
  | .next t =>
    t.lastAccess.map fun access =>
      ⟨regs.map (getReg t), t.pc, t.sp, ⟨t.carry, t.zero, t.comparison⟩, addrs.map (peek t), access⟩
  | _ => none

theorem test_nop_TV1 : seen [] []
    (vector 5 0 ⟨false, false, false⟩ [] [(5, 0)]) =
    some ⟨[], 6, 0, ⟨false, false, false⟩, [], (5, 0)⟩ := by decide

theorem test_nop_TV6 : seen [] []
    (vector 0xFFFFFF 0 ⟨false, false, false⟩ [] [(0xFFFFFF, 0)]) =
    some ⟨[], 0x1000000, 0, ⟨false, false, false⟩, [], (0xFFFFFF, 0)⟩ := by decide

theorem test_rsv10_TV2 : seen [] []
    (vector 7 0 ⟨false, false, false⟩ [] [(7, 0xA1234567)]) =
    some ⟨[], 8, 0, ⟨false, false, false⟩, [], (7, 0xA1234567)⟩ := by decide

theorem test_rsv11_TV3 : seen [] []
    (vector 0 0 ⟨false, false, false⟩ [] [(0, 0xB0000000)]) =
    some ⟨[], 1, 0, ⟨false, false, false⟩, [], (0, 0xB0000000)⟩ := by decide

theorem test_halt_TV4 : seen [] []
    (vector 0 0 ⟨false, false, false⟩ [] [(0, 0xF0000000)]) =
    some ⟨[], 1, 0, ⟨false, false, false⟩, [], (0, 0xF0000000)⟩ := by decide

theorem test_halt_TV5 : seen [] []
    (vector 0xFFFFFF 0 ⟨false, false, false⟩ [] [(0xFFFFFF, 0xF0000000)]) =
    some ⟨[], 0x1000000, 0, ⟨false, false, false⟩, [], (0xFFFFFF, 0xF0000000)⟩ := by decide

theorem test_add_TA2 : seen [3] []
    (vector 0x10 0 ⟨false, false, false⟩ [(1, 0xFFFFFFFF), (2, 1)] [(0x10, 0x13120000)]) =
    some ⟨[0], 0x11, 0, ⟨true, true, false⟩, [], (0x10, 0x13120000)⟩ := by decide

theorem test_add_TA5 : seen [1] []
    (vector 0x10 0 ⟨false, false, false⟩ [(1, 0x80000001)] [(0x10, 0x11110000)]) =
    some ⟨[2], 0x11, 0, ⟨true, false, false⟩, [], (0x10, 0x11110000)⟩ := by decide

theorem test_sub_TA10 : seen [3] []
    (vector 0x10 0 ⟨false, false, false⟩ [(1, 3), (2, 5)] [(0x10, 0x13120001)]) =
    some ⟨[0xFFFFFFFE], 0x11, 0, ⟨false, false, false⟩, [], (0x10, 0x13120001)⟩ := by decide

theorem test_sub_TA11 : seen [3] []
    (vector 0x10 0 ⟨true, false, false⟩ [(1, 0), (2, 1)] [(0x10, 0x13120001)]) =
    some ⟨[0xFFFFFFFF], 0x11, 0, ⟨true, false, false⟩, [], (0x10, 0x13120001)⟩ := by decide

theorem test_mul_TA12 : seen [6] []
    (vector 0x10 0 ⟨false, false, false⟩ [(4, 6), (5, 7)] [(0x10, 0x16450002)]) =
    some ⟨[0x2A], 0x11, 0, ⟨false, false, false⟩, [], (0x10, 0x16450002)⟩ := by decide

theorem test_mul_TA14 : seen [3] []
    (vector 0x10 0 ⟨false, false, false⟩ [(1, 0xFFFFFFFF), (2, 0xFFFFFFFF)] [(0x10, 0x13120002)]) =
    some ⟨[1], 0x11, 0, ⟨false, false, false⟩, [], (0x10, 0x13120002)⟩ := by decide

theorem test_neg_TA15 : seen [2] []
    (vector 0x10 0 ⟨false, false, false⟩ [(1, 5)] [(0x10, 0x12100003)]) =
    some ⟨[0xFFFFFFFB], 0x11, 0, ⟨false, false, false⟩, [], (0x10, 0x12100003)⟩ := by decide

theorem test_neg_TA16 : seen [2] []
    (vector 0x10 0 ⟨false, false, false⟩ [(1, 0x80000000)] [(0x10, 0x12100003)]) =
    some ⟨[0x80000000], 0x11, 0, ⟨false, false, false⟩, [], (0x10, 0x12100003)⟩ := by decide

theorem test_and_TA18 : seen [3] []
    (vector 0x10 0 ⟨false, false, false⟩ [(1, 0xF0F0), (2, 0xFF0)] [(0x10, 0x13120004)]) =
    some ⟨[0xF0], 0x11, 0, ⟨false, false, false⟩, [], (0x10, 0x13120004)⟩ := by decide

theorem test_and_TA19 : seen [3] []
    (vector 0x10 0 ⟨false, false, false⟩ [(1, 0xF0F0), (2, 0xF0F)] [(0x10, 0x13120004)]) =
    some ⟨[0], 0x11, 0, ⟨false, true, false⟩, [], (0x10, 0x13120004)⟩ := by decide

theorem test_or_TA20 : seen [3] []
    (vector 0x10 0 ⟨false, false, false⟩ [(1, 0xF000), (2, 0xF)] [(0x10, 0x13120005)]) =
    some ⟨[0xF00F], 0x11, 0, ⟨false, false, false⟩, [], (0x10, 0x13120005)⟩ := by decide

theorem test_not_TA21 : seen [1] []
    (vector 0x10 0 ⟨false, false, false⟩ [(1, 0xFFFF)] [(0x10, 0x11100006)]) =
    some ⟨[0xFFFF0000], 0x11, 0, ⟨false, false, false⟩, [], (0x10, 0x11100006)⟩ := by decide

theorem test_not_TA22 : seen [2] []
    (vector 0x10 0 ⟨false, false, false⟩ [(1, 0xFFFFFFFF)] [(0x10, 0x12100006)]) =
    some ⟨[0], 0x11, 0, ⟨false, true, false⟩, [], (0x10, 0x12100006)⟩ := by decide

theorem test_nand_TA23 : seen [3] []
    (vector 0x10 0 ⟨false, false, false⟩ [(1, 0xFFFF0000), (2, 0xFF00FF00)] [(0x10, 0x13120007)]) =
    some ⟨[0xFFFFFF], 0x11, 0, ⟨false, false, false⟩, [], (0x10, 0x13120007)⟩ := by decide

theorem test_xor_TA25 : seen [1] []
    (vector 0x10 0 ⟨false, false, false⟩ [(1, 0x1234)] [(0x10, 0x11110008)]) =
    some ⟨[0], 0x11, 0, ⟨false, true, false⟩, [], (0x10, 0x11110008)⟩ := by decide

theorem test_xnor_TA26 : seen [3] []
    (vector 0x10 0 ⟨false, false, false⟩ [(1, 0xFF00), (2, 0xFF0)] [(0x10, 0x13120009)]) =
    some ⟨[0xFFFF0F0F], 0x11, 0, ⟨false, false, false⟩, [], (0x10, 0x13120009)⟩ := by decide

theorem test_shl_TA29 : seen [3] []
    (vector 0x10 0 ⟨false, false, false⟩ [(1, 0x80000000), (2, 1)] [(0x10, 0x1312000A)]) =
    some ⟨[0], 0x11, 0, ⟨false, true, false⟩, [], (0x10, 0x1312000A)⟩ := by decide

theorem test_shl_TA31 : seen [3] []
    (vector 0x10 0 ⟨false, false, false⟩ [(1, 1), (2, 0x21)] [(0x10, 0x1312000A)]) =
    some ⟨[2], 0x11, 0, ⟨false, false, false⟩, [], (0x10, 0x1312000A)⟩ := by decide

theorem test_shr_TA32 : seen [3] []
    (vector 0x10 0 ⟨false, false, false⟩ [(1, 0x80000000), (2, 4)] [(0x10, 0x1312000B)]) =
    some ⟨[0x8000000], 0x11, 0, ⟨false, false, false⟩, [], (0x10, 0x1312000B)⟩ := by decide

theorem test_shr_TA34 : seen [3] []
    (vector 0x10 0 ⟨false, false, false⟩ [(1, 0x80000000), (2, 0xFFFFFFFF)] [(0x10, 0x1312000B)]) =
    some ⟨[1], 0x11, 0, ⟨false, false, false⟩, [], (0x10, 0x1312000B)⟩ := by decide

theorem test_asr_TA35 : seen [3] []
    (vector 0x10 0 ⟨false, false, false⟩ [(1, 0x80000000), (2, 1)] [(0x10, 0x1312000C)]) =
    some ⟨[0x40000000], 0x11, 0, ⟨false, false, false⟩, [], (0x10, 0x1312000C)⟩ := by decide

theorem test_asr_TA36 : seen [3] []
    (vector 0x10 0 ⟨false, false, false⟩ [(1, 0xFFFFFFFF), (2, 0x1F)] [(0x10, 0x1312000C)]) =
    some ⟨[1], 0x11, 0, ⟨false, false, false⟩, [], (0x10, 0x1312000C)⟩ := by decide

theorem test_rol_TA37 : seen [3] []
    (vector 0x10 0 ⟨false, false, false⟩ [(1, 0x80000001), (2, 1)] [(0x10, 0x1312000D)]) =
    some ⟨[3], 0x11, 0, ⟨false, false, false⟩, [], (0x10, 0x1312000D)⟩ := by decide

theorem test_rol_TA38 : seen [3] []
    (vector 0x10 0 ⟨false, false, false⟩ [(1, 0x1234), (2, 0x20)] [(0x10, 0x1312000D)]) =
    some ⟨[0x1234], 0x11, 0, ⟨false, false, false⟩, [], (0x10, 0x1312000D)⟩ := by decide

theorem test_ror_TA39 : seen [3] []
    (vector 0x10 0 ⟨false, false, false⟩ [(1, 0x12345678), (2, 8)] [(0x10, 0x1312000E)]) =
    some ⟨[0x78123456], 0x11, 0, ⟨false, false, false⟩, [], (0x10, 0x1312000E)⟩ := by decide

theorem test_ror_TA40 : seen [3] []
    (vector 0x10 0 ⟨false, false, false⟩ [(1, 1), (2, 1)] [(0x10, 0x1312000E)]) =
    some ⟨[0x80000000], 0x11, 0, ⟨false, false, false⟩, [], (0x10, 0x1312000E)⟩ := by decide

theorem test_zero_TA41 : seen [7] []
    (vector 0x10 0 ⟨true, false, true⟩ [(7, 0x63)] [(0x10, 0x1700000F)]) =
    some ⟨[0], 0x11, 0, ⟨true, true, true⟩, [], (0x10, 0x1700000F)⟩ := by decide

theorem test_cmpgt_TK2 : seen [] []
    (vector 0x10 0 ⟨false, false, true⟩ [(1, 7)] [(0x10, 0x20110000)]) =
    some ⟨[], 0x11, 0, ⟨false, false, false⟩, [], (0x10, 0x20110000)⟩ := by decide

theorem test_cmpgt_TK3 : seen [] []
    (vector 0x10 0 ⟨false, false, false⟩ [(1, 0xFFFFFFFF), (2, 1)] [(0x10, 0x20120000)]) =
    some ⟨[], 0x11, 0, ⟨false, false, true⟩, [], (0x10, 0x20120000)⟩ := by decide

theorem test_cmpeq_TK4 : seen [] []
    (vector 0x10 0 ⟨false, false, false⟩ [(1, 7), (2, 7)] [(0x10, 0x20120001)]) =
    some ⟨[], 0x11, 0, ⟨false, false, true⟩, [], (0x10, 0x20120001)⟩ := by decide

theorem test_cmpeq_TK5 : seen [] []
    (vector 0x10 0 ⟨false, false, true⟩ [(1, 7), (2, 8)] [(0x10, 0x20120001)]) =
    some ⟨[], 0x11, 0, ⟨false, false, false⟩, [], (0x10, 0x20120001)⟩ := by decide

theorem test_cmplt_TK6 : seen [] []
    (vector 0x10 0 ⟨false, false, false⟩ [(1, 3), (2, 7)] [(0x10, 0x20120002)]) =
    some ⟨[], 0x11, 0, ⟨false, false, true⟩, [], (0x10, 0x20120002)⟩ := by decide

theorem test_cmplt_TK7 : seen [] []
    (vector 0x10 0 ⟨false, false, true⟩ [(1, 0x80000000), (2, 1)] [(0x10, 0x20120002)]) =
    some ⟨[], 0x11, 0, ⟨false, false, false⟩, [], (0x10, 0x20120002)⟩ := by decide

theorem test_cmpge_TK8 : seen [] []
    (vector 0x10 0 ⟨false, false, true⟩ [(1, 3), (2, 7)] [(0x10, 0x20120003)]) =
    some ⟨[], 0x11, 0, ⟨false, false, false⟩, [], (0x10, 0x20120003)⟩ := by decide

theorem test_cmpge_TK9 : seen [] []
    (vector 0x10 0 ⟨false, false, false⟩ [(1, 7), (2, 7)] [(0x10, 0x20120003)]) =
    some ⟨[], 0x11, 0, ⟨false, false, true⟩, [], (0x10, 0x20120003)⟩ := by decide

theorem test_cmple_TK10 : seen [] []
    (vector 0x10 0 ⟨false, false, false⟩ [(1, 3), (2, 3)] [(0x10, 0x20120004)]) =
    some ⟨[], 0x11, 0, ⟨false, false, true⟩, [], (0x10, 0x20120004)⟩ := by decide

theorem test_cmple_TK11 : seen [] []
    (vector 0x10 0 ⟨false, false, true⟩ [(1, 0xFFFFFFFF), (2, 0)] [(0x10, 0x20120004)]) =
    some ⟨[], 0x11, 0, ⟨false, false, false⟩, [], (0x10, 0x20120004)⟩ := by decide

theorem test_cmpnv_TK12 : seen [] []
    (vector 0x10 0 ⟨false, false, true⟩ [(1, 1), (2, 1)] [(0x10, 0x20120005)]) =
    some ⟨[], 0x11, 0, ⟨false, false, false⟩, [], (0x10, 0x20120005)⟩ := by decide

theorem test_cmpnv_TK13 : seen [] []
    (vector 0x10 0 ⟨false, false, true⟩ [(1, 1), (2, 1)] [(0x10, 0x2012000F)]) =
    some ⟨[], 0x11, 0, ⟨false, false, false⟩, [], (0x10, 0x2012000F)⟩ := by decide

theorem test_jmp_TJ1 : seen [] []
    (vector 0x20 0 ⟨false, false, false⟩ [] [(0x20, 0x30000100)]) =
    some ⟨[], 0x100, 0, ⟨false, false, false⟩, [], (0x20, 0x30000100)⟩ := by decide

theorem test_jmp_TJ15 : seen [] []
    (vector 0x20 0 ⟨false, false, false⟩ [] [(0x20, 0x30000020)]) =
    some ⟨[], 0x20, 0, ⟨false, false, false⟩, [], (0x20, 0x30000020)⟩ := by decide

theorem test_jc_TJ2 : seen [] []
    (vector 0x20 0 ⟨true, false, false⟩ [] [(0x20, 0x31000100)]) =
    some ⟨[], 0x100, 0, ⟨true, false, false⟩, [], (0x20, 0x31000100)⟩ := by decide

theorem test_jc_TJ3 : seen [] []
    (vector 0x20 0 ⟨false, false, false⟩ [] [(0x20, 0x31000100)]) =
    some ⟨[], 0x21, 0, ⟨false, false, false⟩, [], (0x20, 0x31000100)⟩ := by decide

theorem test_jnc_TJ4 : seen [] []
    (vector 0x20 0 ⟨false, false, false⟩ [] [(0x20, 0x32000100)]) =
    some ⟨[], 0x100, 0, ⟨false, false, false⟩, [], (0x20, 0x32000100)⟩ := by decide

theorem test_jnc_TJ5 : seen [] []
    (vector 0x20 0 ⟨true, false, false⟩ [] [(0x20, 0x32000100)]) =
    some ⟨[], 0x21, 0, ⟨true, false, false⟩, [], (0x20, 0x32000100)⟩ := by decide

theorem test_jcmp_TJ6 : seen [] []
    (vector 0x20 0 ⟨false, false, true⟩ [] [(0x20, 0x33000100)]) =
    some ⟨[], 0x100, 0, ⟨false, false, true⟩, [], (0x20, 0x33000100)⟩ := by decide

theorem test_jcmp_TJ7 : seen [] []
    (vector 0x20 0 ⟨false, false, false⟩ [] [(0x20, 0x33000100)]) =
    some ⟨[], 0x21, 0, ⟨false, false, false⟩, [], (0x20, 0x33000100)⟩ := by decide

theorem test_jncmp_TJ8 : seen [] []
    (vector 0x20 0 ⟨false, false, false⟩ [] [(0x20, 0x34000100)]) =
    some ⟨[], 0x100, 0, ⟨false, false, false⟩, [], (0x20, 0x34000100)⟩ := by decide

theorem test_jncmp_TJ9 : seen [] []
    (vector 0x20 0 ⟨false, false, true⟩ [] [(0x20, 0x34000100)]) =
    some ⟨[], 0x21, 0, ⟨false, false, true⟩, [], (0x20, 0x34000100)⟩ := by decide

theorem test_jz_TJ10 : seen [] []
    (vector 0x20 0 ⟨false, true, false⟩ [] [(0x20, 0x35000100)]) =
    some ⟨[], 0x100, 0, ⟨false, true, false⟩, [], (0x20, 0x35000100)⟩ := by decide

theorem test_jz_TJ11 : seen [] []
    (vector 0x20 0 ⟨false, false, false⟩ [] [(0x20, 0x35000100)]) =
    some ⟨[], 0x21, 0, ⟨false, false, false⟩, [], (0x20, 0x35000100)⟩ := by decide

theorem test_jnz_TJ12 : seen [] []
    (vector 0x20 0 ⟨false, false, false⟩ [] [(0x20, 0x36000100)]) =
    some ⟨[], 0x100, 0, ⟨false, false, false⟩, [], (0x20, 0x36000100)⟩ := by decide

theorem test_jnz_TJ13 : seen [] []
    (vector 0x20 0 ⟨false, true, false⟩ [] [(0x20, 0x36000100)]) =
    some ⟨[], 0x21, 0, ⟨false, true, false⟩, [], (0x20, 0x36000100)⟩ := by decide

theorem test_jmpa_TJ14 : seen [] []
    (vector 0x20 0 ⟨false, false, false⟩ [] [(0x20, 0x37FFFFFF)]) =
    some ⟨[], 0xFFFFFF, 0, ⟨false, false, false⟩, [], (0x20, 0x37FFFFFF)⟩ := by decide

theorem test_jmpr_TJ16 : seen [] []
    (vector 0x20 0 ⟨false, false, false⟩ [(4, 0xAB000100)] [(0x20, 0x38040000)]) =
    some ⟨[], 0x100, 0, ⟨false, false, false⟩, [], (0x20, 0x38040000)⟩ := by decide

theorem test_jmpr_TJ17 : seen [] []
    (vector 0x20 0 ⟨false, false, false⟩ [(4, 0xFFFFFFFF)] [(0x20, 0x38040000)]) =
    some ⟨[], 0xFFFFFF, 0, ⟨false, false, false⟩, [], (0x20, 0x38040000)⟩ := by decide

theorem test_jcr_TJ18 : seen [] []
    (vector 0x20 0 ⟨false, false, false⟩ [(4, 0x100)] [(0x20, 0x39040000)]) =
    some ⟨[], 0x21, 0, ⟨false, false, false⟩, [], (0x20, 0x39040000)⟩ := by decide

theorem test_jcr_TJ19 : seen [] []
    (vector 0x20 0 ⟨true, false, false⟩ [(4, 0x100)] [(0x20, 0x39040000)]) =
    some ⟨[], 0x100, 0, ⟨true, false, false⟩, [], (0x20, 0x39040000)⟩ := by decide

theorem test_jncr_TJ20 : seen [] []
    (vector 0x20 0 ⟨true, false, false⟩ [(4, 0x100)] [(0x20, 0x3A040000)]) =
    some ⟨[], 0x21, 0, ⟨true, false, false⟩, [], (0x20, 0x3A040000)⟩ := by decide

theorem test_jcmpr_TJ21 : seen [] []
    (vector 0x20 0 ⟨false, false, true⟩ [(4, 0x1000005)] [(0x20, 0x3B040000)]) =
    some ⟨[], 5, 0, ⟨false, false, true⟩, [], (0x20, 0x3B040000)⟩ := by decide

theorem test_jncmpr_TJ22 : seen [] []
    (vector 0x20 0 ⟨false, false, false⟩ [(4, 0x100)] [(0x20, 0x3C040000)]) =
    some ⟨[], 0x100, 0, ⟨false, false, false⟩, [], (0x20, 0x3C040000)⟩ := by decide

theorem test_jzr_TJ23 : seen [] []
    (vector 0x20 0 ⟨false, true, false⟩ [(4, 0x100)] [(0x20, 0x3D040000)]) =
    some ⟨[], 0x100, 0, ⟨false, true, false⟩, [], (0x20, 0x3D040000)⟩ := by decide

theorem test_jnzr_TJ24 : seen [] []
    (vector 0x20 0 ⟨false, true, false⟩ [(4, 0x100)] [(0x20, 0x3E040000)]) =
    some ⟨[], 0x21, 0, ⟨false, true, false⟩, [], (0x20, 0x3E040000)⟩ := by decide

theorem test_jnzr_TJ25 : seen [] []
    (vector 0x20 0 ⟨false, false, false⟩ [(4, 0x100)] [(0x20, 0x3E040000)]) =
    some ⟨[], 0x100, 0, ⟨false, false, false⟩, [], (0x20, 0x3E040000)⟩ := by decide

theorem test_jmpar_TJ26 : seen [] []
    (vector 0x20 0 ⟨false, false, false⟩ [(4, 0x100)] [(0x20, 0x3F040000)]) =
    some ⟨[], 0x100, 0, ⟨false, false, false⟩, [], (0x20, 0x3F040000)⟩ := by decide

theorem test_loadAbs_TM1 : seen [2] []
    (vector 0x10 0 ⟨false, false, false⟩ [] [(0x10, 0x42000100), (0x100, 0xDEADBEEF)]) =
    some ⟨[0xDEADBEEF], 0x11, 0, ⟨false, false, false⟩, [], (0x100, 0xDEADBEEF)⟩ := by decide

theorem test_loadAbs_TM2 : seen [2] []
    (vector 0x10 0 ⟨false, false, false⟩ [] [(0x10, 0x42000010)]) =
    some ⟨[0x42000010], 0x11, 0, ⟨false, false, false⟩, [], (0x10, 0x42000010)⟩ := by decide

theorem test_loadInd_TM4 : seen [1] []
    (vector 0x10 0 ⟨false, false, false⟩ [(5, 0x1000010)] [(0x10, 0x51050000)]) =
    some ⟨[0x51050000], 0x11, 0, ⟨false, false, false⟩, [], (0x10, 0x51050000)⟩ := by decide

theorem test_loadInd_TM5 : seen [3] []
    (vector 0x10 0 ⟨false, false, false⟩ [(3, 0x300)] [(0x10, 0x53030000), (0x300, 0x77)]) =
    some ⟨[0x77], 0x11, 0, ⟨false, false, false⟩, [], (0x300, 0x77)⟩ := by decide

theorem test_loadImm_TM7 : seen [1] []
    (vector 0x10 0 ⟨false, false, false⟩ [] [(0x10, 0x61FFFFFF)]) =
    some ⟨[0xFFFFFF], 0x11, 0, ⟨false, false, false⟩, [], (0x10, 0x61FFFFFF)⟩ := by decide

theorem test_loadImm_TM8 : seen [2] []
    (vector 0x10 0 ⟨false, true, false⟩ [(2, 9)] [(0x10, 0x62000000)]) =
    some ⟨[0], 0x11, 0, ⟨false, true, false⟩, [], (0x10, 0x62000000)⟩ := by decide

theorem test_storeAbs_TM9 : seen [] [0x100010]
    (vector 0x10 0 ⟨false, false, false⟩ [(1, 0x1234)] [(0x10, 0x70100010)]) =
    some ⟨[], 0x11, 0, ⟨false, false, false⟩, [0x1234], (0x100010, 0x1234)⟩ := by decide

theorem test_storeAbs_TM11 : seen [] [0x100010]
    (vector 0x10 0 ⟨false, false, false⟩ [(1, 0x55), (15, 0x66)] [(0x10, 0x7F100010)]) =
    some ⟨[], 0x11, 0, ⟨false, false, false⟩, [0x55], (0x100010, 0x55)⟩ := by decide

theorem test_storeInd_TM12 : seen [] [0x300]
    (vector 0x10 0 ⟨false, false, false⟩ [(1, 9), (2, 0x1000300)] [(0x10, 0x80120000)]) =
    some ⟨[], 0x11, 0, ⟨false, false, false⟩, [9], (0x300, 9)⟩ := by decide

theorem test_storeInd_TM13 : seen [] [0x300]
    (vector 0x10 0 ⟨false, false, false⟩ [(4, 0x300)] [(0x10, 0x80440000)]) =
    some ⟨[], 0x11, 0, ⟨false, false, false⟩, [0x300], (0x300, 0x300)⟩ := by decide

theorem test_mov_TM15 : seen [7] []
    (vector 0x10 0 ⟨false, false, false⟩ [(2, 0x2A)] [(0x10, 0x97200000)]) =
    some ⟨[0x2A], 0x11, 0, ⟨false, false, false⟩, [], (0x10, 0x97200000)⟩ := by decide

theorem test_mov_TM16 : seen [3] []
    (vector 0x10 0 ⟨false, false, false⟩ [(3, 5)] [(0x10, 0x93300000)]) =
    some ⟨[5], 0x11, 0, ⟨false, false, false⟩, [], (0x10, 0x93300000)⟩ := by decide

theorem test_push_TS1 : seen [] [0xFFF]
    (vector 0x10 0x1000 ⟨false, false, false⟩ [(3, 0x37)] [(0x10, 0xC0300000)]) =
    some ⟨[], 0x11, 0xFFF, ⟨false, false, false⟩, [0x37], (0xFFF, 0x37)⟩ := by decide

theorem test_push_TS2 : seen [] [0xFFFFFF]
    (vector 0x10 0 ⟨false, false, false⟩ [(3, 0x37)] [(0x10, 0xC0300000)]) =
    some ⟨[], 0x11, 0xFFFFFFFF, ⟨false, false, false⟩, [0x37], (0xFFFFFF, 0x37)⟩ := by decide

theorem test_pop_TS5 : seen [4] []
    (vector 0x10 0xFFFFFFFF ⟨false, false, false⟩ [] [(0x10, 0xC4000001), (0xFFFFFF, 0x37)]) =
    some ⟨[0x37], 0x11, 0, ⟨false, false, false⟩, [], (0xFFFFFF, 0x37)⟩ := by decide

theorem test_pop_TS6 : seen [4] []
    (vector 0 0 ⟨false, false, false⟩ [] [(0, 0xC4000001)]) =
    some ⟨[0xC4000001], 1, 1, ⟨false, false, false⟩, [], (0, 0xC4000001)⟩ := by decide

theorem test_peek_TS7 : seen [5] []
    (vector 0x10 0xFFF ⟨false, false, false⟩ [] [(0x10, 0xC5000002), (0xFFF, 0x37)]) =
    some ⟨[0x37], 0x11, 0xFFF, ⟨false, false, false⟩, [], (0xFFF, 0x37)⟩ := by decide

theorem test_szero_TS8 : seen [6] []
    (vector 0x10 0x1000 ⟨false, false, false⟩ [(6, 9)] [(0x10, 0xC6000003)]) =
    some ⟨[0], 0x11, 0x1000, ⟨false, false, false⟩, [], (0x10, 0xC6000003)⟩ := by decide

theorem test_call_TT1 : seen [] [0xFFE, 0xFFF]
    (vector 0x10 0x1000 ⟨true, false, true⟩ [] [(0x10, 0xD0000200)]) =
    some ⟨[], 0x200, 0xFFE, ⟨true, false, true⟩, [5, 0x11], (0xFFE, 5)⟩ := by decide

theorem test_call_TT2 : seen [] [0xFFFFFE, 0xFFFFFF]
    (vector 0xFFFFFF 0 ⟨false, false, false⟩ [] [(0xFFFFFF, 0xD0000200)]) =
    some ⟨[], 0x200, 0xFFFFFFFE, ⟨false, false, false⟩, [0, 0], (0xFFFFFE, 0)⟩ := by decide

theorem test_ret_TT4 : seen [] []
    (vector 0x10 0xFFE ⟨true, true, true⟩ [] [(0x10, 0xD1000000), (0xFFE, 0xFFFFFFF8), (0xFFF, 0x1000000)]) =
    some ⟨[], 0x1000000, 0x1000, ⟨false, false, false⟩, [], (0xFFF, 0x1000000)⟩ := by decide

theorem test_ret_TT5 : seen [] []
    (vector 0x10 0xFFFFFFFF ⟨false, false, false⟩ [] [(0, 0x40), (0x10, 0xD1000000), (0xFFFFFF, 7)]) =
    some ⟨[], 0x40, 1, ⟨true, true, true⟩, [], (0, 0x40)⟩ := by decide

theorem test_syscall_TY3 : seen [] [0x40, 0x41]
    (vector 0x20 0x41 ⟨true, true, true⟩ [] [(0x20, 0xE0000007), (0x40, 0x300)]) =
    some ⟨[], 7, 0x40, ⟨true, true, true⟩, [7, 7], (0x41, 7)⟩ := by decide

theorem test_syscall_TY6 : seen [] [0x41, 0x7FF]
    { vector 0x30 0x800 ⟨false, false, false⟩ [] [(0x30, 0xE0ABCDEF), (0x40, 0x1000000)] with priv := true, reti := 0x21 } =
    some ⟨[], 0x1000000, 0x7FF, ⟨false, false, false⟩, [0xABCDEF, 0], (0x41, 0xABCDEF)⟩ := by decide

theorem test_reti_TY2 : seen [] []
    { vector 0x300 0xFFF ⟨false, false, false⟩ [] [(0x300, 0xE1000000), (0xFFF, 2)] with priv := true, reti := 0x21 } =
    some ⟨[], 0x21, 0x1000, ⟨false, true, false⟩, [], (0xFFF, 2)⟩ := by decide

theorem test_reti_TY5 : seen [] []
    (vector 0x10 0x1000 ⟨false, false, false⟩ [] [(0x10, 0xE1000000), (0x1000, 0)]) =
    some ⟨[], 0, 0x1001, ⟨false, false, false⟩, [], (0x1000, 0)⟩ := by decide
/-! ## Witnesses: a concrete state and operands that meet the hypotheses of each obligation that has any -/

/-- A state at `pc` 0x10 that runs `w`, with `x[1]` = 9, `x[2]` = 0x11 and `sp` = 0x1000. -/
def at16 (w : Word) : State := vector 0x10 0x1000 ⟨true, false, true⟩ [(1, 9), (2, 0x11)] [(0x10, w)]

/-- Whether the step of `at16` by this word answers a next state. -/
def steps (w : Word) : Bool :=
  match step (at16 w) with
  | .next _ => true
  | _ => false

theorem witness_EncodeThenDecode :
    (Instr.cmpnv 5 0 15).wellFormed = true ∧ (Instr.cmpnv 15 0 15).wellFormed = true ∧
    (Instr.storeAbs 0 0x0FFFFF).wellFormed = true ∧ (Instr.storeAbs 15 0xFFFFFF).wellFormed = true := by decide

theorem witness_ReencodingClearsIgnoredBits : decode 0x7F100010 = .ok (.storeAbs 1 0x100010) := by decide

theorem witness_IgnoredBitsHaveNoEffect :
    decode 0x10120FF0 = .ok (.add 0 1 2) ∧
      0x10120000 &&& usedBits (Instr.add 0 1 2).mnemonic = 0x10120FF0 &&& usedBits (Instr.add 0 1 2).mnemonic := by decide

theorem witness_DisassemblyAssembles :
    (Instr.cmpnv 5 0 15).wellFormed = true ∧ ∀ fn sr1 sr2, Instr.cmpnv 5 0 15 = .cmpnv fn sr1 sr2 → fn = 5 :=
  ⟨by decide, fun _ _ _ h => by injection h with h; exact h.symm⟩

theorem witness_AssembledLinesFit :
    assemble ⟨.storeAbs, [.absolute 0xFFFFFF, .reg 15]⟩ = .ok 0x70FFFFFF ∧
    assemble ⟨.loadImm, [.reg 0, .number 0]⟩ = .ok 0x60000000 := by decide

theorem witness_RunInvariantAtStart : [(0xF0000000 : Word)].length < 2 ^ 24 := by decide

theorem witness_StepKeepsMemoryCanonical :
    ∃ s t, MemoryCanonical s ∧ step s = .next t ∧ t.mem.length = 2 :=
  ⟨at16 0x80120000, _, rfl, rfl, by decide⟩

/-- `reti` at its bound: SYSCALL at the last word (TY7). -/
theorem witness_StepKeepsRetiBounded :
    ∃ s t, RetiBounded s ∧ step s = .next t ∧ t.reti = 0x1000000 :=
  ⟨vector 0xFFFFFF 0x800 ⟨false, false, false⟩ [] [(0x40, 0x300), (0xFFFFFF, 0xE0000001)], _,
    (by unfold RetiBounded; decide), rfl, by decide⟩

theorem witness_RunInvariant : RunInvariant (construct [0x61000005] 0) :=
  ⟨rfl, fun _ _ h => (by cases h), (by unfold RetiBounded; decide), rfl, rfl, rfl⟩

/-- Every operation of the host, from a state with the invariant of a run. -/
theorem witness_HostOperationsKeepRunInvariant :
    RunInvariant (construct [0x61000005] 0) ∧
    (∃ t, hostOp (.step true 0) (construct [0x61000005] 0) = .next t ∧ getReg t 1 = 5) ∧
    (∃ t, hostOp (.construct [0xF0000000] true 0) (construct [0x61000005] 0) = .next t ∧ peek t 0 = 0xF0000000) ∧
    (∃ t, hostOp .reset (construct [0x61000005] 0) = .next t ∧ t.pc = 0) ∧
    (∃ t, hostOp .restart (construct [0x61000005] 0) = .next t ∧ peek t 0 = 0x61000005) ∧
    (∃ t, hostOp .introspect (construct [0x61000005] 0) = .next t ∧ t.pc = 0) :=
  ⟨witness_RunInvariant, ⟨_, rfl, by decide⟩, ⟨_, rfl, by decide⟩, ⟨_, rfl, by decide⟩, ⟨_, rfl, by decide⟩,
    ⟨_, rfl, by decide⟩⟩

/-- A word at the last address, and one at address 0. -/
theorem witness_StepRunsDecodedInstruction :
    ((vector 0xFFFFFF 0 ⟨false, false, false⟩ [] [(0xFFFFFF, 0)]).pc.toNat < 2 ^ 24 ∧
      decode (wordAt (vector 0xFFFFFF 0 ⟨false, false, false⟩ [] [(0xFFFFFF, 0)])) = .ok .nop) ∧
    ((vector 0 0 ⟨false, false, false⟩ [] [(0, 0xF0000000)]).pc.toNat < 2 ^ 24 ∧
      decode (wordAt (vector 0 0 ⟨false, false, false⟩ [] [(0, 0xF0000000)])) = .ok .halt) := by decide

theorem witness_OutOfBoundsExactlyBeyondMemory :
    step { State.reset with pc := 0x1000000 } = .fault .pcOutOfBounds ∧
    step { State.reset with pc := 0xFFFFFFFF } = .fault .pcOutOfBounds := ⟨rfl, rfl⟩

theorem witness_StepInMemoryCompletes :
    ({ State.reset with pc := 0xFFFFFF } : State).pc.toNat < 2 ^ 24 ∧ State.reset.pc.toNat < 2 ^ 24 := by decide

/-- A step of each class, the hypothesis of StatusByClass, CyclesByClass, NextPcSelection, ScratchAfterStep,
LastAccessOfStep, StackPointerMoves, RestartOperation and the frames. -/
theorem witness_steps_of_every_class :
    [0x00000000, 0x10120000, 0x20120000, 0x30000100, 0x40000010, 0x50020000, 0x60000000, 0x70000000, 0x80120000,
      0x90100000, 0xA0000000, 0xB0000000, 0xC0100000, 0xD0000200, 0xE0000007, 0xF0000000].all steps = true := by decide

/-- What the steps of the two statuses are (R110). -/
theorem witness_StatusByClass :
    (∃ t, step (at16 0xF0000000) = .next t ∧ t.status = .halt) ∧ (∃ t, step (at16 0xA0000000) = .next t ∧ t.status = .ok) :=
  ⟨⟨_, rfl, by decide⟩, ⟨_, rfl, by decide⟩⟩

/-- The four ways beyond memory: RET (TT4), SYSCALL (TY6), RETI, and the fetch at the last word (TV6). -/
theorem witness_SourcesOfOutOfBounds :
    (∃ t, step (vector 0x10 0xFFE ⟨false, false, false⟩ [] [(0x10, 0xD1000000), (0xFFE, 0), (0xFFF, 0x1000000)]) = .next t ∧
      t.pc = 0x1000000) ∧
    (∃ t, step (vector 0x30 0x800 ⟨false, false, false⟩ [] [(0x30, 0xE0ABCDEF), (0x40, 0x1000000)]) = .next t ∧
      t.pc = 0x1000000) ∧
    (∃ t, step { vector 0x30 0x800 ⟨false, false, false⟩ [] [(0x30, 0xE1000000)] with reti := 0x1000000 } = .next t ∧
      t.pc = 0x1000000) ∧
    (∃ t, step (vector 0xFFFFFF 0 ⟨false, false, false⟩ [] [(0xFFFFFF, 0)]) = .next t ∧ t.pc = 0x1000000) :=
  ⟨⟨_, rfl, by decide⟩, ⟨_, rfl, by decide⟩, ⟨_, rfl, by decide⟩, ⟨_, rfl, by decide⟩⟩

/-- Registers outside the destination: of an ADD, of a PUSH, which has none, and of a POP. -/
theorem witness_StepRegisterFrame :
    declaredDest (wordAt (at16 0x10120000)) ≠ some 15 ∧ declaredDest (wordAt (at16 0xC0100000)) ≠ some 0 ∧
    declaredDest (wordAt (at16 0xC4000001)) ≠ some 0 ∧ steps 0xC4000001 = true := by decide

/-- Addresses outside the stored words: next to a PUSH's, a CALL's and a SYSCALL's, and any for a POP. -/
theorem witness_StepMemoryFrame :
    (0x1000 : Addr) ∉ storedAddrs (at16 0xC0100000) (wordAt (at16 0xC0100000)) ∧
    (0xFFD : Addr) ∉ storedAddrs (at16 0xD0000200) (wordAt (at16 0xD0000200)) ∧
    (0x40 : Addr) ∉ storedAddrs (at16 0xE0000007) (wordAt (at16 0xE0000007)) ∧
    (0x1000 : Addr) ∉ storedAddrs (at16 0xC4000001) (wordAt (at16 0xC4000001)) := by decide

/-- Steps for each clause: class 1, ADD, class 2 by its first and last `fn`, RET, RETI, and for the last clause a step not
of class 1, one of class 1 that is not ADD, one not of class 2, and a CALL, which is not a RET. -/
theorem witness_FlagWriters :
    (∃ t, step (at16 0x1000000F) = .next t ∧ opcBits (wordAt (at16 0x1000000F)) = 1 ∧ t.zero = true) ∧
    (∃ t, step (at16 0x10120000) = .next t ∧ fnBits (wordAt (at16 0x10120000)) = 0 ∧ t.carry = false) ∧
    (∃ t, step (at16 0x20210000) = .next t ∧ opcBits (wordAt (at16 0x20210000)) = 2 ∧ t.comparison = true) ∧
    (∃ t, step (at16 0x2021000F) = .next t ∧ fnBits (wordAt (at16 0x2021000F)) = 15 ∧ t.comparison = false) ∧
    (IsSelect (wordAt (at16 0xD1000000)) 13 true ∧ IsSelect (wordAt (at16 0xE1000000)) 14 true) ∧
    opcBits (wordAt (at16 0x20120000)) ≠ 1 ∧
    ¬ (opcBits (wordAt (at16 0x10120001)) = 1 ∧ fnBits (wordAt (at16 0x10120001)) = 0) ∧
    opcBits (wordAt (at16 0x10120000)) ≠ 2 ∧
    ¬ IsSelect (wordAt (at16 0xD0000200)) 13 true := by
  refine ⟨⟨_, rfl, by decide⟩, ⟨_, rfl, by decide⟩, ⟨_, rfl, by decide⟩, ⟨_, rfl, by decide⟩, ?_⟩
  unfold IsSelect
  decide

/-- SYSCALL, RETI and a step of another class: the clauses of TrapRegisterWriters. -/
theorem witness_TrapRegisterWriters :
    (opcBits (wordAt (at16 0xE0000007)) = 14 ∧ sBit (wordAt (at16 0xE0000007)) = false ∧ steps 0xE0000007 = true) ∧
    (opcBits (wordAt (at16 0xE1000000)) = 14 ∧ sBit (wordAt (at16 0xE1000000)) = true ∧ steps 0xE1000000 = true) ∧
    (opcBits (wordAt (at16 0xD1000000)) ≠ 14 ∧ steps 0xD1000000 = true) := by decide

theorem witness_PrivilegeGatesNothing :
    (∃ t, step (at16 0xE1000000) = .next t ∧ t.priv = false) ∧
    (∃ t, step (at16 0xE0000007) = .next t ∧ t.priv = true) := ⟨⟨_, rfl, by decide⟩, ⟨_, rfl, by decide⟩⟩

/-- Two states that differ in everything only the host sees. -/
theorem witness_HostOnlyStateIsNotRead :
    SameToProgram (at16 0x10120000)
      { at16 0x10120000 with priv := true, lastAccess := some (3, 4), scratch := scratchOf 5, cycles := 6, status := .halt,
                             image := [7] } ∧
    steps 0x10120000 = true := by
  refine ⟨⟨rfl, rfl, rfl, rfl, rfl, rfl, rfl, rfl, rfl⟩, by decide⟩

/-- A store over the word the next step fetches, and that step: by STORE_IND (TM14), STORE_ABS, PUSH, a CALL into its own
flags word, a CALL into its own return address, and a SYSCALL whose vector is the argument cell. -/
theorem witness_StoreSeenByNextFetch :
    ∀ s ∈ [vector 0x10 0 ⟨false, false, false⟩ [(1, 0x30000000), (2, 0x11)] [(0x10, 0x80120000)],
        vector 0x10 0 ⟨false, false, false⟩ [(0, 0x30000000)] [(0x10, 0x70000011)],
        vector 0x10 0x12 ⟨false, false, false⟩ [(1, 0x30000000)] [(0x10, 0xC0100000)],
        vector 0x10 0x202 ⟨true, false, true⟩ [] [(0x10, 0xD0000200)],
        vector 0x10 0x201 ⟨true, false, true⟩ [] [(0x10, 0xD0000200)],
        vector 0x10 0x1000 ⟨true, false, true⟩ [] [(0x10, 0xE0000007), (0x40, 0x41)]],
      ∃ t u v, step s = .next t ∧ storedWord s (wordAt s) (t.pc.setWidth 24) = some v ∧ step t = .next u ∧
        u.scratch.word = v := by
  simp only [List.forall_mem_cons, List.not_mem_nil, false_implies, implies_true, and_true]
  refine ⟨?_, ?_, ?_, ?_, ?_, ?_⟩
  all_goals exact ⟨_, _, _, rfl, rfl, rfl, rfl⟩

/-- Words of classes 0, 10, 11 and 15 with every other bit set. -/
theorem witness_InertInstructions :
    opcBits 0x0FFFFFFF = 0 ∧ opcBits 0xAFFFFFFF = 10 ∧ opcBits 0xBFFFFFFF = 11 ∧ opcBits 0xFFFFFFFF = 15 := by decide

/-- A word for each value of `fn` in class 1, the decoding clauses of AddResult, SubMulNegResults, LogicResults,
NandXnorResults, ShiftResults, RotateResults and ZeroResult. -/
theorem witness_class1_words :
    opcBits 0x1FFFFFF0 = 1 ∧
    [0x1FFFFFF0, 0x1FFFFFF1, 0x1FFFFFF2, 0x1FFFFFF3, 0x1FFFFFF4, 0x1FFFFFF5, 0x1FFFFFF6, 0x1FFFFFF7, 0x1FFFFFF8,
      0x1FFFFFF9, 0x1FFFFFFA, 0x1FFFFFFB, 0x1FFFFFFC, 0x1FFFFFFD, 0x1FFFFFFE, 0x1FFFFFFF].map fnBits =
    [0, 1, 2, 3, 4, 5, 6, 7, 8, 9, 10, 11, 12, 13, 14, 15] := by decide

/-- The last pair of LogicResults' list, and the last bit of a word. -/
theorem witness_LogicResults (dr sr1 sr2 : Reg) :
    (Instr.xor dr sr1 sr2, fun a b : Bool => a != b) ∈
      [(Instr.and dr sr1 sr2, fun a b : Bool => a && b), (Instr.or dr sr1 sr2, fun a b => a || b),
        (Instr.not dr sr1, fun a _ => !a), (Instr.xor dr sr1 sr2, fun a b => a != b)] ∧ 31 < 32 :=
  ⟨by simp, by decide⟩

/-- Words for each clause, the selectors 5 and 15 of CMPNV among them. -/
theorem witness_CompareResults :
    [0x20120000, 0x20120001, 0x20120002, 0x20120003, 0x20120004].map opcBits = [2, 2, 2, 2, 2] ∧
    [0x20120000, 0x20120001, 0x20120002, 0x20120003, 0x20120004].map fnBits = [0, 1, 2, 3, 4] ∧
    opcBits 0x20120005 = 2 ∧ 5 ≤ (fnBits 0x20120005).toNat ∧ opcBits 0x2012000F = 2 ∧ 5 ≤ (fnBits 0x2012000F).toNat := by
  decide

/-- The first and the last condition, with a word of each. -/
theorem witness_ImmediateJumps :
    (opcBits 0x30000000 = 3 ∧ jmBit 0x30000000 = false ∧ jcBits 0x30000000 = 0 ∧ immBits 0x30000000 = 0) ∧
    (opcBits 0x37FFFFFF = 3 ∧ jmBit 0x37FFFFFF = false ∧ jcBits 0x37FFFFFF = 7 ∧ immBits 0x37FFFFFF = 0xFFFFFF) := by decide

theorem witness_RegisterJumps :
    (opcBits 0x38000000 = 3 ∧ jmBit 0x38000000 = true ∧ jcBits 0x38000000 = 0 ∧ sr2Bits 0x38000000 = 0) ∧
    (opcBits 0x3FFFFFFF = 3 ∧ jmBit 0x3FFFFFFF = true ∧ jcBits 0x3FFFFFFF = 7 ∧ sr2Bits 0x3FFFFFFF = 15) := by decide

/-- A word of each class of LoadResults, LoadImmediateAndMove and StoreResults. -/
theorem witness_load_store_move_words :
    [0x4FFFFFFF, 0x5FFFFFFF, 0x6FFFFFFF, 0x7FFFFFFF, 0x8FFFFFFF, 0x9FFFFFFF].map opcBits = [4, 5, 6, 7, 8, 9] := by decide

/-- A word of each `sop`, and of each `s` of classes 13 and 14. -/
theorem witness_stack_call_trap_words :
    (IsStack 0xCFFFFFFC 0 ∧ IsStack 0xCFFFFFFD 1 ∧ IsStack 0xCFFFFFFE 2 ∧ IsStack 0xCFFFFFFF 3) ∧
    (IsSelect 0xDEFFFFFF 13 false ∧ IsSelect 0xDFFFFFFF 13 true) ∧
    (IsSelect 0xEEFFFFFF 14 false ∧ IsSelect 0xEFFFFFFF 14 true) := by
  unfold IsStack IsSelect
  decide

/-- A CALL at the last word to a RET (W4.6; 90_conflicts.md C8). -/
theorem witness_CallThenRet :
    ∃ s t u, step s = .next t ∧ IsSelect (wordAt s) 13 false ∧ IsSelect (wordAt t) 13 true ∧ step t = .next u ∧ u.pc = 0 :=
  ⟨vector 0xFFFFFF 0x1000 ⟨true, false, true⟩ [] [(0x200, 0xD1000000), (0xFFFFFF, 0xD0000200)], _, _, rfl,
    (by unfold IsSelect; decide), (by unfold IsSelect; decide), rfl, by decide⟩

/-- A SYSCALL and a handler that is a RETI, with the pushed word beside the argument cell (`sp` = 0x43) and in it
(`sp` = 0x42). -/
theorem witness_SyscallThenReti :
    (∃ s t u, step s = .next t ∧ IsSelect (wordAt s) 14 false ∧ IsSelect (wordAt t) 14 true ∧ step t = .next u ∧
      maskAddr (s.sp - 1) ≠ 0x41 ∧ u.carry = true ∧ u.zero = false) ∧
    (∃ s t u, step s = .next t ∧ IsSelect (wordAt s) 14 false ∧ IsSelect (wordAt t) 14 true ∧ step t = .next u ∧
      maskAddr (s.sp - 1) = 0x41 ∧ u.carry = false ∧ u.zero = true) :=
  ⟨⟨vector 0x20 0x43 ⟨true, false, false⟩ [] [(0x20, 0xE0000002), (0x40, 0x300), (0x300, 0xE1000000)], _, _, rfl,
      (by unfold IsSelect; decide), (by unfold IsSelect; decide), rfl, by decide⟩,
    ⟨vector 0x20 0x42 ⟨true, false, false⟩ [] [(0x20, 0xE0000002), (0x40, 0x300), (0x300, 0xE1000000)], _, _, rfl,
      (by unfold IsSelect; decide), (by unfold IsSelect; decide), rfl, by decide⟩⟩

/-- An empty image, and one of one word. -/
theorem witness_ConstructionState : ([] : List Word).length < 2 ^ 24 ∧ [(0 : Word)].length < 2 ^ 24 := by decide

/-- The two ends of a run: a HALT, and a step past the last word; and what the right sides say of the same states. -/
theorem witness_EndOfRun :
    (∃ t, runToEnd 1 (at16 0xF0000000) = some (.halt, t) ∧ GoesOn 0 (at16 0xF0000000) (at16 0xF0000000) ∧
      step (at16 0xF0000000) = .next t ∧ t.status = .halt) ∧
    (∃ t, runToEnd 2 (vector 0xFFFFFF 0 ⟨false, false, false⟩ [] [(0xFFFFFF, 0)]) = some (.pcOutOfBounds, t) ∧
      GoesOn 1 (vector 0xFFFFFF 0 ⟨false, false, false⟩ [] [(0xFFFFFF, 0)]) t ∧ step t = .fault .pcOutOfBounds) :=
  ⟨⟨_, rfl, rfl, rfl, by decide⟩, ⟨_, rfl, ⟨_, rfl, by decide, rfl⟩, rfl⟩⟩


end Sys2Proof.Tests
end

section
/-! The obligations on the architectural state (10_state.md). `Executes` says once, in terms of the fetched word's bits, what
a step can leave; the register, flag, trap and stack-pointer rules are read off its cases. The two noninterference rules
compare one meaning on two states, so they go by the instructions themselves. -/

namespace Sys2Proof.Machine

open Sys2Proof.Claims

/-! ### The obligations' fields are the decoder's -/

theorem wordAt_eq (s : State) : wordAt s = fetchedWord s := by
  rw [fetchedWord_eq, maskAddr_eq, wordAt]

theorem sBit_eq (w : Word) : sBit w = (sOf w).getLsbD 0 := by
  simp [sBit, sOf, field, layout]

theorem jmBit_eq (w : Word) : jmBit w = (jmOf w).getLsbD 0 := by
  simp [jmBit, jmOf, field, layout]

/-- Every selector from 5 up names the test that never holds (R176). -/
theorem relationOf_of_five_le {fn : BitVec 4} (h : 5 ≤ fn.toNat) (a b : Nat) : relationOf fn a b ↔ False := by
  unfold relationOf
  split
  case h_6 => rfl
  all_goals omega

/-- A jump writes `pc`, with the advanced `pc` where its condition fails (R180). -/
theorem jumpIf_eq (c : Bool) (target : Pc) (s : State) :
    jumpIf c target s = setPc (if c then target else s.pc) s := by
  cases c <;> rfl

/-- Where a word of class 3 jumps to (R81). -/
def jumpTarget (w : Word) (s : State) : Pc :=
  if jmBit w then registerTarget (sr2Bits w) s else immediateTarget (immBits w)

/-- Running the instruction of the word `w` in `s` (fetched, `pc` advanced) leaves `t`: one case per meaning, the
operations of class 1 other than ADD, the tests of class 2 and the jumps of class 3 each in one case. Every fact about a
step follows from these 22 cases. -/
inductive Executes (w : Word) (s : State) : State → Prop
  | nop (hopc : opcBits w = 0) : Executes w s s
  | add (hopc : opcBits w = 1) (hfn : fnBits w = 0) :
      Executes w s
        (setCarry
          (addCarry (getReg s (sr1Bits w)) (getReg s (sr2Bits w)) (aluAdd (getReg s (sr1Bits w)) (getReg s (sr2Bits w))))
          (aluFinish (drBits w) (aluAdd (getReg s (sr1Bits w)) (getReg s (sr2Bits w))) s))
  | alu (hopc : opcBits w = 1) (hfn : fnBits w ≠ 0) (r : Word) : Executes w s (aluFinish (drBits w) r s)
  | compare (hopc : opcBits w = 2) (rel : Word → Word → Bool)
      (hrel : ∀ a b, rel a b = true ↔ relationOf (fnBits w) a.toNat b.toNat) :
      Executes w s (compareRegs rel (sr1Bits w) (sr2Bits w) s)
  | jump (hopc : opcBits w = 3) :
      Executes w s (setPc (if condOf (jcBits w) s then jumpTarget w s else s.pc) s)
  | loadAbs (hopc : opcBits w = 4) : Executes w s (loadWord (drBits w) (absoluteAddr (immBits w)) s)
  | loadInd (hopc : opcBits w = 5) : Executes w s (loadWord (drBits w) (indirectAddr (sr2Bits w) s) s)
  | loadImm (hopc : opcBits w = 6) : Executes w s (setReg (drBits w) (immediateValue (immBits w)) s)
  | storeAbs (hopc : opcBits w = 7) : Executes w s (memWrite (absoluteAddr (immBits w)) (getReg s (sr1Bits w)) s)
  | storeInd (hopc : opcBits w = 8) : Executes w s (memWrite (indirectAddr (sr2Bits w) s) (getReg s (sr1Bits w)) s)
  | mov (hopc : opcBits w = 9) : Executes w s (setReg (drBits w) (getReg s (sr1Bits w)) s)
  | rsv10 (hopc : opcBits w = 10) : Executes w s s
  | rsv11 (hopc : opcBits w = 11) : Executes w s s
  | push (hopc : opcBits w = 12) (hsop : sopBits w = 0) : Executes w s (pushWord (getReg s (sr1Bits w)) s)
  | pop (hopc : opcBits w = 12) (hsop : sopBits w = 1) :
      Executes w s (setReg (drBits w) (popWord s).1 (popWord s).2)
  | peek (hopc : opcBits w = 12) (hsop : sopBits w = 2) : Executes w s (loadWord (drBits w) s.sp s)
  | szero (hopc : opcBits w = 12) (hsop : sopBits w = 3) : Executes w s (setReg (drBits w) 0 s)
  | call (hopc : opcBits w = 13) (hs : sBit w = false) :
      Executes w s
        (pushWord (flagsWord s) (setPc (immediateTarget (immBits w)) (pushWord (returnAddress s) s)))
  | ret (hopc : opcBits w = 13) (hs : sBit w = true) :
      Executes w s (unpackFlags (popWord s).1 (setPc (popWord (popWord s).2).1 (popWord (popWord s).2).2))
  | syscall (hopc : opcBits w = 14) (hs : sBit w = false) : Executes w s (enterSyscall (immBits w) s)
  | reti (hopc : opcBits w = 14) (hs : sBit w = true) : Executes w s (leaveSyscall s)
  | halt (hopc : opcBits w = 15) : Executes w s (setStatus .halt s)

section
variable {w : Word} {s t : State}

/-- The jumps to an immediate target, by their condition. -/
theorem Executes.jumpImm {c : Bool} (hopc : opcBits w = 3) (hjm : jmOf w = 0) (hcond : condOf (jcBits w) s = c) :
    Executes w s (jumpIf c (immediateTarget (immBits w)) s) := by
  have htarget : jumpTarget w s = immediateTarget (immBits w) := by simp [jumpTarget, jmBit_eq, hjm]
  rw [← hcond, ← htarget, jumpIf_eq]
  exact .jump hopc

/-- The jumps to a register target, by their condition. -/
theorem Executes.jumpReg {c : Bool} (hopc : opcBits w = 3) (hjm : jmOf w = 1) (hcond : condOf (jcBits w) s = c) :
    Executes w s (jumpIf c (registerTarget (sr2Bits w) s) s) := by
  have htarget : jumpTarget w s = registerTarget (sr2Bits w) s := by simp [jumpTarget, jmBit_eq, hjm]
  rw [← hcond, ← htarget, jumpIf_eq]
  exact .jump hopc

/-- A class-1 word with a selector other than ADD's writes some result. -/
theorem Executes.alu_of_fn {fn : BitVec 4} (hopc : opcBits w = 1) (hfn : fnBits w = fn) (hne : fn ≠ 0) (r : Word) :
    Executes w s (aluFinish (drBits w) r s) :=
  .alu hopc (hfn ▸ hne) r

/-- The test of a class-2 word with selector `fn` is `rel`. -/
theorem Executes.compare_of_fn {fn : BitVec 4} {rel : Word → Word → Bool} (hopc : opcBits w = 2) (hfn : fnBits w = fn)
    (hrel : ∀ a b, rel a b = true ↔ relationOf fn a.toNat b.toNat) :
    Executes w s (compareRegs rel (sr1Bits w) (sr2Bits w) s) :=
  .compare hopc rel (hfn ▸ hrel)

/-- The decoded instruction's meaning is one of the cases of `Executes`. -/
theorem executes_of_exec {i : Instr} (hd : DecodesTo w i) (he : exec i s = .next t) : Executes w s t := by
  cases i <;> cases he
  case nop => exact .nop hd
  case add =>
    obtain ⟨hopc, hfn, rfl, rfl, rfl⟩ := hd
    exact .add hopc hfn
  case sub | mul | and | or | nand | xor | xnor | shl | shr | asr | rol | ror =>
    obtain ⟨hopc, hfn, rfl, rfl, rfl⟩ := hd
    exact .alu_of_fn hopc hfn (by decide) _
  case neg | not =>
    obtain ⟨hopc, hfn, rfl, rfl⟩ := hd
    exact .alu_of_fn hopc hfn (by decide) _
  case zero =>
    obtain ⟨hopc, hfn, rfl⟩ := hd
    exact .alu_of_fn hopc hfn (by decide) _
  case cmpgt =>
    obtain ⟨hopc, hfn, rfl, rfl⟩ := hd
    exact .compare_of_fn hopc hfn relGt_iff
  case cmpeq =>
    obtain ⟨hopc, hfn, rfl, rfl⟩ := hd
    exact .compare_of_fn hopc hfn relEq_iff
  case cmplt =>
    obtain ⟨hopc, hfn, rfl, rfl⟩ := hd
    exact .compare_of_fn hopc hfn relLt_iff
  case cmpge =>
    obtain ⟨hopc, hfn, rfl, rfl⟩ := hd
    exact .compare_of_fn hopc hfn relGe_iff
  case cmple =>
    obtain ⟨hopc, hfn, rfl, rfl⟩ := hd
    exact .compare_of_fn hopc hfn relLe_iff
  case cmpnv =>
    obtain ⟨hopc, hfn, rfl, rfl, rfl⟩ := hd
    exact .compare hopc relNever fun a b => (relNever_iff a b).trans (relationOf_of_five_le hfn _ _).symm
  case jmp | jc | jnc | jcmp | jncmp | jz | jnz | jmpa =>
    obtain ⟨hopc, hjc, hjm, rfl⟩ := hd
    exact .jumpImm hopc hjm (congrArg (condOf · s) hjc)
  case jmpr | jcr | jncr | jcmpr | jncmpr | jzr | jnzr | jmpar =>
    obtain ⟨hopc, hjc, hjm, rfl⟩ := hd
    exact .jumpReg hopc hjm (congrArg (condOf · s) hjc)
  case loadAbs =>
    obtain ⟨hopc, rfl, rfl⟩ := hd
    exact .loadAbs hopc
  case loadInd =>
    obtain ⟨hopc, rfl, rfl⟩ := hd
    exact .loadInd hopc
  case loadImm =>
    obtain ⟨hopc, rfl, rfl⟩ := hd
    exact .loadImm hopc
  case storeAbs =>
    obtain ⟨hopc, rfl, rfl⟩ := hd
    exact .storeAbs hopc
  case storeInd =>
    obtain ⟨hopc, rfl, rfl⟩ := hd
    exact .storeInd hopc
  case mov =>
    obtain ⟨hopc, rfl, rfl⟩ := hd
    exact .mov hopc
  case rsv10 => exact .rsv10 hd
  case rsv11 => exact .rsv11 hd
  case push =>
    obtain ⟨hopc, hsop, rfl⟩ := hd
    exact .push hopc hsop
  case pop =>
    obtain ⟨hopc, hsop, rfl⟩ := hd
    exact .pop hopc hsop
  case peek =>
    obtain ⟨hopc, hsop, rfl⟩ := hd
    exact .peek hopc hsop
  case szero =>
    obtain ⟨hopc, hsop, rfl⟩ := hd
    exact .szero hopc hsop
  case call =>
    obtain ⟨hopc, hs, rfl⟩ := hd
    exact .call hopc (by rw [sBit_eq, hs]; rfl)
  case ret =>
    obtain ⟨hopc, hs⟩ := hd
    exact .ret hopc (by rw [sBit_eq, hs]; rfl)
  case syscall =>
    obtain ⟨hopc, hs, rfl⟩ := hd
    exact .syscall hopc (by rw [sBit_eq, hs]; rfl)
  case reti =>
    obtain ⟨hopc, hs⟩ := hd
    exact .reti hopc (by rw [sBit_eq, hs]; rfl)
  case halt => exact .halt hd

/-- A step that answers a next state executes the word at `pc` on the fetched state and then counts the cycles. -/
theorem step_executes (h : step s = .next t) :
    s.pc.toNat < Config.memWords ∧
      ∃ u, Executes (wordAt s) (afterFetch s) u ∧ t = account (wordAt s) u := by
  obtain ⟨hpc, i, u, hd, he, ht⟩ := step_cases h
  rw [wordAt_eq]
  exact ⟨hpc, u, executes_of_exec hd he, ht⟩

/-! ### Register frame (R23) -/

/-- A word either declares no destination and leaves the register file, or writes its declared destination and no other
register (R23). -/
theorem Executes.regs_cases (h : Executes w s t) :
    (declaredDest w = none ∧ t.regs = s.regs) ∨
      ∃ v, declaredDest w = some (drBits w) ∧ t.regs = (setReg (drBits w) v s).regs := by
  cases h
  case nop hopc | compare hopc _ _ | jump hopc | storeAbs hopc | storeInd hopc | rsv10 hopc | rsv11 hopc |
      halt hopc =>
    exact .inl ⟨by simp [declaredDest, hopc], rfl⟩
  case push hopc hsop => exact .inl ⟨by simp [declaredDest, hopc, hsop], rfl⟩
  case call hopc _ | ret hopc _ | syscall hopc _ | reti hopc _ =>
    exact .inl ⟨by simp [declaredDest, hopc], rfl⟩
  case add hopc _ | alu hopc _ _ | loadAbs hopc | loadInd hopc | loadImm hopc | mov hopc =>
    exact .inr ⟨_, by simp [declaredDest, hopc], rfl⟩
  case pop hopc hsop | peek hopc hsop | szero hopc hsop =>
    exact .inr ⟨_, by simp [declaredDest, hopc, hsop], rfl⟩

theorem Executes.getReg_of_not_dest (h : Executes w s t) {r : Reg} (hr : declaredDest w ≠ some r) :
    getReg t r = getReg s r := by
  obtain ⟨-, hregs⟩ | ⟨v, hdest, hregs⟩ := h.regs_cases
  · exact getReg_congr hregs r
  · have hne : drBits w ≠ r := fun heq => hr (heq ▸ hdest)
    rw [getReg_congr hregs, getReg_setReg, if_neg hne]

/-! ### The trap and the returns (R231, R240, R241) -/

/-- A word of class 13 with `s` set is RET: every other case has another class or selector. -/
theorem Executes.of_ret (h : Executes w s t) (hw : IsSelect w 13 true) :
    t = unpackFlags (popWord s).1 (setPc (popWord (popWord s).2).1 (popWord (popWord s).2).2) := by
  obtain ⟨hopc', hs'⟩ := hw
  cases h
  case ret => rfl
  all_goals simp_all

/-- A word of class 14 with `s` clear is SYSCALL. -/
theorem Executes.of_syscall (h : Executes w s t) (hw : IsSelect w 14 false) : t = enterSyscall (immBits w) s := by
  obtain ⟨hopc', hs'⟩ := hw
  cases h
  case syscall => rfl
  all_goals simp_all

/-- A word of class 14 with `s` set is RETI. -/
theorem Executes.of_reti (h : Executes w s t) (hw : IsSelect w 14 true) : t = leaveSyscall s := by
  obtain ⟨hopc', hs'⟩ := hw
  cases h
  case reti => rfl
  all_goals simp_all

/-- Outside class 14 nothing writes `PRIV` or `reti` (R34, R35). -/
theorem Executes.keeps_trap_registers (h : Executes w s t) (hw : opcBits w ≠ 14) :
    t.priv = s.priv ∧ t.reti = s.reti := by
  cases h
  case syscall hopc _ | reti hopc _ => exact absurd hopc hw
  all_goals exact ⟨rfl, rfl⟩

/-! ### The stack pointer (R28) -/

/-- How far each executed word moves `sp` (R28). -/
theorem Executes.sp (h : Executes w s t) : t.sp = s.sp + spChange w := by
  cases h
  case push hopc hsel | syscall hopc hsel =>
    have hchange : spChange w = -1 := by simp [spChange, hopc, hsel]
    rw [hchange]
    exact BitVec.sub_eq_add_neg _ _
  case pop hopc hsel | reti hopc hsel =>
    have hchange : spChange w = 1 := by simp [spChange, hopc, hsel]
    rw [hchange]
    rfl
  case peek hopc hsel | szero hopc hsel =>
    have hchange : spChange w = 0 := by simp [spChange, hopc, hsel]
    rw [hchange]
    exact (BitVec.add_zero s.sp).symm
  case call hopc hs =>
    have hchange : spChange w = -2 := by simp [spChange, hopc, hs]
    rw [hchange]
    show s.sp - 1 - 1 = s.sp + -2
    bv_omega
  case ret hopc hs =>
    have hchange : spChange w = 2 := by simp [spChange, hopc, hs]
    rw [hchange]
    show s.sp + 1 + 1 = s.sp + 2
    bv_omega
  case nop hopc | add hopc _ | alu hopc _ _ | compare hopc _ _ | jump hopc | loadAbs hopc | loadInd hopc |
      loadImm hopc | storeAbs hopc | storeInd hopc | mov hopc | rsv10 hopc | rsv11 hopc | halt hopc =>
    have hchange : spChange w = 0 := by simp [spChange, hopc]
    rw [hchange]
    exact (BitVec.add_zero s.sp).symm

/-! ### Flags (R30, R31, R32) -/

/-- Class 1 tells in `Z` whether its result is zero (R140). -/
theorem Executes.zero_iff (h : Executes w s t) (hw : opcBits w = 1) : t.zero = true ↔ getReg t (drBits w) = 0 := by
  cases h
  case add =>
    rw [setCarry_zero, getReg_setCarry, getReg_aluFinish]
    exact aluFinish_zero _ _ _
  case alu =>
    rw [getReg_aluFinish]
    exact aluFinish_zero _ _ _
  all_goals simp_all

/-- ADD tells in `C` whether its result is below an operand (R141). -/
theorem Executes.carry_iff (h : Executes w s t) (hw : opcBits w = 1) (hfn : fnBits w = 0) :
    t.carry = true ↔
      (getReg t (drBits w)).toNat < (getReg s (sr1Bits w)).toNat ∨
        (getReg t (drBits w)).toNat < (getReg s (sr2Bits w)).toNat := by
  cases h
  case add =>
    rw [setCarry_carry, getReg_setCarry, getReg_aluFinish]
    exact addCarry_iff _ _ _
  all_goals simp_all

/-- Class 2 tells in `CMP` whether its test holds (R170). -/
theorem Executes.comparison_iff (h : Executes w s t) (hw : opcBits w = 2) :
    t.comparison = true ↔
      relationOf (fnBits w) (getReg s (sr1Bits w)).toNat (getReg s (sr2Bits w)).toNat := by
  cases h
  case compare rel _ hrel => exact hrel _ _
  all_goals simp_all

/-- The two returns unpack the word at `sp` (R231, R241). -/
theorem Executes.flagsFrom (h : Executes w s t) (hw : IsSelect w 13 true ∨ IsSelect w 14 true) :
    FlagsFrom (Machine.peek s (maskAddr s.sp)) t := by
  rcases hw with hw | hw
  · rw [h.of_ret hw]
    exact ⟨rfl, rfl, rfl⟩
  · rw [h.of_reti hw]
    exact ⟨rfl, rfl, rfl⟩

/-- No flag is written but `Z` by class 1, `C` by ADD, `CMP` by class 2, and all three by the two returns
(R30, R31, R32). -/
theorem Executes.keeps_flags (h : Executes w s t) (hret : ¬ IsSelect w 13 true) (hreti : ¬ IsSelect w 14 true) :
    (opcBits w ≠ 1 → t.zero = s.zero) ∧ (¬ (opcBits w = 1 ∧ fnBits w = 0) → t.carry = s.carry) ∧
      (opcBits w ≠ 2 → t.comparison = s.comparison) := by
  cases h
  case add hopc hfn => exact ⟨fun hw => absurd hopc hw, fun hw => absurd ⟨hopc, hfn⟩ hw, fun _ => rfl⟩
  case alu hopc _ _ => exact ⟨fun hw => absurd hopc hw, fun _ => rfl, fun _ => rfl⟩
  case compare hopc _ _ => exact ⟨fun _ => rfl, fun _ => rfl, fun hw => absurd hopc hw⟩
  case ret hopc hs => exact absurd ⟨hopc, hs⟩ hret
  case reti hopc hs => exact absurd ⟨hopc, hs⟩ hreti
  all_goals exact ⟨fun _ => rfl, fun _ => rfl, fun _ => rfl⟩

end

/-! ## What a step writes and keeps -/

/-- Settles O25: the executed word writes its declared destination or no register, and fetch and accounting write none. -/
theorem stepRegisterFrame : Obligations.StepRegisterFrame := by
  intro s t r h hr
  obtain ⟨-, u, hu, rfl⟩ := step_executes h
  rw [getReg_account, hu.getReg_of_not_dest hr, getReg_afterFetch]

/-- Settles O28: class 14 is SYSCALL or RETI, whose meanings say what they write; no other class writes either register. -/
theorem trapRegisterWriters : Obligations.TrapRegisterWriters := by
  refine ⟨fun s t h => ?_, fun s => ⟨rfl, rfl⟩⟩
  obtain ⟨-, u, hu, rfl⟩ := step_executes h
  refine ⟨fun hw => ?_, fun hw => ?_, hu.keeps_trap_registers⟩
  · rw [hu.of_syscall hw]
    exact ⟨rfl, rfl⟩
  · rw [hu.of_reti hw]
    exact ⟨rfl, rfl⟩

/-- Settles O13: SYSCALL alone writes `reti`, and the fetch needed `pc < 2^24`, so the advanced pc does not wrap. -/
theorem stepKeepsRetiBounded : Obligations.StepKeepsRetiBounded := by
  intro s t hb h
  obtain ⟨hsyscall, hreti, hother⟩ := trapRegisterWriters.1 s t h
  obtain ⟨hpc, -⟩ := step_executes h
  unfold RetiBounded Config.memWords at *
  by_cases hopc : opcBits (wordAt s) = 14
  · cases hs : sBit (wordAt s) with
    | false =>
      rw [(hsyscall ⟨hopc, hs⟩).2]
      bv_omega
    | true => rwa [(hreti ⟨hopc, hs⟩).2]
  · rwa [(hother hopc).2]

/-- Settles O29: the executed word moves `sp` by its table entry, and fetch and accounting keep it. -/
theorem stackPointerMoves : Obligations.StackPointerMoves := by
  intro s t h
  obtain ⟨-, u, hu, rfl⟩ := step_executes h
  exact hu.sp

/-- Settles O27: a rule per flag writer and one for everything else; fetch and accounting keep flags, registers and
memory. -/
theorem flagWriters : Obligations.FlagWriters := by
  intro s t h
  obtain ⟨-, u, hu, rfl⟩ := step_executes h
  exact ⟨hu.zero_iff, hu.carry_iff, hu.comparison_iff, hu.flagsFrom, hu.keeps_flags⟩

/-! ## The invariant at the start of a run -/

/-- The state of a construction from an image that fits keeps the invariant. -/
theorem runInvariant_construct {image : List Word} (epoch : Nat) (h : image.length < Config.memWords) :
    RunInvariant (construct image epoch) where
  memory := Memory.wf_ofImage image h
  lastAccess := by
    intro a v hsome
    cases hsome
  reti := Nat.zero_le _
  scratch := (by decide : State.reset.scratch = scratchOf State.reset.scratch.word)
  status := rfl
  image := decide_eq_true h

/-- Settles O11: reset is construction from the empty image. -/
theorem runInvariantAtStart : Obligations.RunInvariantAtStart :=
  ⟨runInvariant_construct (image := []) 0 (by decide), fun _ epoch h => runInvariant_construct epoch h⟩

/-! ## The privilege bit gates nothing (R34, R261) -/

theorem jumpIf_setPriv (c : Bool) (target : Pc) (b : Bool) (s : State) :
    jumpIf c target (setPriv b s) = setPriv b (jumpIf c target s) := by
  cases c <;> rfl

/-- No meaning reads `PRIV`: from another `PRIV` it leaves the same state but for `PRIV` (R34, R261). -/
theorem exec_setPriv {i : Instr} {s t : State} (b : Bool) (he : exec i s = .next t) :
    ∃ c, exec i (setPriv b s) = .next (setPriv c t) := by
  cases i <;> cases he
  case syscall => exact ⟨true, rfl⟩
  case reti => exact ⟨false, rfl⟩
  case jmp | jc | jnc | jcmp | jncmp | jz | jnz | jmpa | jmpr | jcr | jncr | jcmpr | jncmpr | jzr | jnzr | jmpar =>
    exact ⟨b, congrArg Host.Outcome.next (jumpIf_setPriv _ _ b s)⟩
  all_goals exact ⟨b, rfl⟩

/-- A step from another `PRIV` fetches the same word and leaves the same state but for `PRIV`. -/
theorem step_setPriv {s t : State} (b : Bool) (h : step s = .next t) :
    ∃ c, step (setPriv b s) = .next (setPriv c t) := by
  obtain ⟨hpc, i, u, hd, he, rfl⟩ := (step_next_iff s t).1 h
  obtain ⟨c, hc⟩ := exec_setPriv b he
  exact ⟨c, step_of_decode (s := setPriv b s) hpc hd hc⟩

/-- Settles O30: the step is the same but for `PRIV`, and what `PRIV` becomes is known of both steps by
`trapRegisterWriters`. -/
theorem privilegeGatesNothing : Obligations.PrivilegeGatesNothing := by
  intro s t b h
  obtain ⟨c, hc⟩ := step_setPriv b h
  obtain ⟨hsyscall, hreti, -⟩ := trapRegisterWriters.1 s t h
  obtain ⟨hsyscall', hreti', hother'⟩ := trapRegisterWriters.1 _ _ hc
  have hpriv : c = if opcBits (wordAt s) = 14 then t.priv else b := by
    split
    next hopc =>
      cases hs : sBit (wordAt s) with
      | false => exact (hsyscall' ⟨hopc, hs⟩).1.trans (hsyscall ⟨hopc, hs⟩).1.symm
      | true => exact (hreti' ⟨hopc, hs⟩).1.trans (hreti ⟨hopc, hs⟩).1.symm
    next hopc => exact (hother' hopc).1
  rw [← hpriv]
  exact hc

/-! ## What only the host observes (R20, R116) -/

/-- What a program can see of a state (R20), with everything only the host observes erased. -/
def programView (s : State) : State :=
  { s with priv := false, lastAccess := none, scratch := State.reset.scratch, cycles := 0, status := .ok, image := [] }

theorem sameToProgram_iff (s t : State) : SameToProgram s t ↔ programView s = programView t := by
  simp [SameToProgram, programView]

theorem programView_jumpIf (c : Bool) (target : Pc) (s : State) :
    programView (jumpIf c target (programView s)) = programView (jumpIf c target s) := by
  cases c <;> rfl

theorem programView_pc (s : State) : (programView s).pc = s.pc := rfl

theorem fetchedWord_programView (s : State) : fetchedWord (programView s) = fetchedWord s := rfl

theorem programView_afterFetch (s : State) : programView (afterFetch s) = setPc (s.pc + 1) (programView s) := rfl

theorem programView_account (w : Word) (s : State) : programView (account w s) = programView s := rfl

/-- What a program sees of a meaning's result depends only on what it sees of the state before. -/
theorem exec_programView {i : Instr} {s t : State} (he : exec i s = .next t) :
    ∃ v, exec i (programView s) = .next v ∧ programView v = programView t := by
  cases i <;> cases he
  case jmp | jc | jnc | jcmp | jncmp | jz | jnz | jmpa | jmpr | jcr | jncr | jcmpr | jncmpr | jzr | jnzr | jmpar =>
    exact ⟨_, rfl, programView_jumpIf _ _ s⟩
  all_goals exact ⟨_, rfl, rfl⟩

/-- A meaning on two states that look the same to a program leaves two such states. -/
theorem exec_of_programView_eq {i : Instr} {s s' t : State} (hview : programView s = programView s')
    (he : exec i s = .next t) : ∃ t', exec i s' = .next t' ∧ programView t = programView t' := by
  obtain ⟨v, hv, hvt⟩ := exec_programView he
  obtain ⟨t', he'⟩ := exec_next i s'
  obtain ⟨v', hv', hvt'⟩ := exec_programView he'
  rw [← hview, hv] at hv'
  cases hv'
  exact ⟨t', he', hvt.symm.trans hvt'⟩

/-- Settles O31: the two states fetch the same word, and its meaning keeps them the same to a program. -/
theorem hostOnlyStateIsNotRead : Obligations.HostOnlyStateIsNotRead := by
  intro s s' t hsame h
  obtain ⟨hpc, i, u, hd, he, rfl⟩ := (step_next_iff s t).1 h
  have hview : programView s = programView s' := (sameToProgram_iff s s').1 hsame
  have hpcs : s.pc = s'.pc := by rw [← programView_pc s, hview, programView_pc]
  have hword : fetchedWord s = fetchedWord s' := by
    rw [← fetchedWord_programView s, hview, fetchedWord_programView]
  have hfetch : programView (afterFetch s) = programView (afterFetch s') := by
    rw [programView_afterFetch, programView_afterFetch, hpcs, hview]
  obtain ⟨u', he', hu⟩ := exec_of_programView_eq hfetch he
  refine ⟨_, step_of_decode (hpcs ▸ hpc) (hword ▸ hd) he', (sameToProgram_iff _ _).2 ?_⟩
  rw [programView_account, programView_account, hu]

end Sys2Proof.Machine
end

section
/-! The obligations on memory (20_memory.md). `Executes.peek_eq` says what every word of memory reads as once the
fetched word has run: the word stored there, else what it read before. The frame of a step and what the next fetch sees
follow from it; the canonical form and the last access are read off the same cases. -/

namespace Sys2Proof.Machine

open Sys2Proof.Claims

/-! ### One access (R51, R52, R53) -/

/-- Two 32-bit addresses name one word exactly when they agree modulo `MEM_WORDS` (R51). -/
theorem maskAddr_inj_iff (a b : Word) : maskAddr a = maskAddr b ↔ a.toNat % 2 ^ 24 = b.toNat % 2 ^ 24 := by
  rw [← BitVec.toNat_inj, maskAddr_toNat, maskAddr_toNat]

theorem maskAddr_add_mul_memWords (k j : Word) : maskAddr (k + j * 16777216) = maskAddr k := by
  rw [maskAddr_inj_iff]
  bv_omega

/-- A write sees its address through the mask only. -/
theorem memWrite_congr {a b : Word} (h : maskAddr a = maskAddr b) (v : Word) (s : State) :
    memWrite a v s = memWrite b v s := by
  simp only [memWrite, h]

/-- A read sees its address through the mask only. -/
theorem memRead_congr {a b : Word} (h : maskAddr a = maskAddr b) (s : State) : memRead a s = memRead b s := by
  simp only [memRead, h]

theorem memWrite_frame (a v : Word) (s : State) :
    Frame { stored := [maskAddr a], lastAccess := true } s (memWrite a v s) := by
  refine ⟨fun _ _ => rfl, fun _ => rfl, fun _ => rfl, fun _ => rfl, fun _ => rfl, fun _ => rfl, fun _ => rfl,
    fun _ => rfl, fun b hb => ?_, nofun, fun _ => rfl, rfl, rfl, rfl, rfl⟩
  have hne : maskAddr a ≠ b := fun h => hb (List.mem_singleton.2 h.symm)
  rw [peek_memWrite, if_neg hne]

theorem memRead_frame (a : Word) (s : State) : Frame { lastAccess := true } s (memRead a s).2 :=
  ⟨fun _ _ => rfl, fun _ => rfl, fun _ => rfl, fun _ => rfl, fun _ => rfl, fun _ => rfl, fun _ => rfl, fun _ => rfl,
    fun _ _ => rfl, nofun, fun _ => rfl, rfl, rfl, rfl, rfl⟩

/-- Settles O9: a write is seen through the mask, and its frame and a read's leave everything else. -/
theorem readAfterWrite : Obligations.ReadAfterWrite := by
  intro s a b v
  rw [← maskAddr_eq, ← maskAddr_eq]
  refine ⟨?_, rfl, memWrite_frame a v s, rfl, memRead_frame b s⟩
  simp only [memRead_value, peek_memWrite, maskAddr_inj_iff]

/-- Settles O10: the two addresses have one mask. -/
theorem addressesWrap : Obligations.AddressesWrap := fun s k j v =>
  have hmask := maskAddr_add_mul_memWords k j
  ⟨memWrite_congr hmask v s, memRead_congr hmask s⟩

/-! ### The words a step stores (R54) -/

/-- The flags word as a number (R12). -/
theorem flagsWord_eq_packedFlags (s : State) : flagsWord s = packedFlags s := by
  unfold flagsWord packedFlags
  cases s.carry <;> cases s.zero <;> cases s.comparison <;> decide

/-- Pushing twice stores at `sp - 2` last (R230). -/
theorem sub_one_sub_one (a : Word) : a - 1 - 1 = a - 2 := by
  bv_omega

/-- Reading over one store: the word stored at `x`, else what the other stores give. -/
theorem getD_store (a x : Addr) (v d : Word) (o : Option Word) :
    (if a = x then some v else o).getD d = if x = a then v else o.getD d := by
  by_cases h : x = a
  · simp [h]
  · simp [h, Ne.symm h]

theorem isSome_store_iff (a x : Addr) (v : Word) (o : Option Word) :
    (if a = x then some v else o).isSome = true ↔ a = x ∨ o.isSome = true := by
  by_cases h : a = x <;> simp [h]

/-- The two tables of R54 agree: a word stores to an address exactly when it gives a word for it. -/
theorem mem_storedAddrs_iff (s : State) (w : Word) (a : Addr) :
    a ∈ storedAddrs s w ↔ ∃ v, storedWord s w a = some v := by
  rw [← Option.isSome_iff_exists]
  unfold storedAddrs storedWord
  split
  case h_1 | h_2 => simp
  case h_3 => by_cases hsop : sopBits w = 0 <;> simp [hsop]
  case h_4 | h_5 =>
    cases sBit w
    · simp [isSome_store_iff, or_comm]
    · simp
  case h_6 => simp

section
variable {w : Word} {s u : State}

/-! ### What the executed word leaves in memory -/

/-- Once the fetched word has run, each word of memory reads as the word stored there, else as before. -/
theorem Executes.peek_eq (h : Executes w (afterFetch s) u) (a : Addr) :
    Machine.peek u a = (storedWord s w a).getD (Machine.peek s a) := by
  cases h
  case storeAbs hopc =>
    have hstored : storedWord s w a = if a = immBits w then some (getReg s (sr1Bits w)) else none := by
      simp [storedWord, hopc]
    rw [hstored, getD_store, peek_memWrite, maskAddr_absoluteAddr]
    rfl
  case storeInd hopc =>
    have hstored : storedWord s w a =
        if a = maskAddr (getReg s (sr2Bits w)) then some (getReg s (sr1Bits w)) else none := by
      simp [storedWord, hopc]
    rw [hstored, getD_store, peek_memWrite]
    rfl
  case push hopc hsop =>
    have hstored : storedWord s w a = if a = maskAddr (s.sp - 1) then some (getReg s (sr1Bits w)) else none := by
      simp [storedWord, hopc, hsop]
    rw [hstored, getD_store, peek_pushWord]
    rfl
  case call hopc hs =>
    have hstored : storedWord s w a =
        if a = maskAddr (s.sp - 2) then some (packedFlags s)
        else if a = maskAddr (s.sp - 1) then some ((s.pc + 1) &&& 0xFFFFFF) else none := by
      simp [storedWord, hopc, hs]
    rw [hstored, getD_store, getD_store, ← sub_one_sub_one, ← flagsWord_eq_packedFlags, peek_pushWord, peek_setPc,
      peek_pushWord]
    rfl
  case syscall hopc hs =>
    have hstored : storedWord s w a =
        if a = 0x41 then some ((immBits w).setWidth 32)
        else if a = maskAddr (s.sp - 1) then some (packedFlags s) else none := by
      simp [storedWord, hopc, hs]
    rw [hstored, getD_store, getD_store, ← flagsWord_eq_packedFlags, peek_enterSyscall, maskAddr_argAddr]
    rfl
  case pop hopc hsop | peek hopc hsop | szero hopc hsop =>
    have hnone : storedWord s w a = none := by simp [storedWord, hopc, hsop]
    rw [hnone]
    rfl
  case ret hopc hs | reti hopc hs =>
    have hnone : storedWord s w a = none := by simp [storedWord, hopc, hs]
    rw [hnone]
    rfl
  case nop hopc | add hopc _ | alu hopc _ _ | compare hopc _ _ | jump hopc | loadAbs hopc | loadInd hopc |
      loadImm hopc | mov hopc | rsv10 hopc | rsv11 hopc | halt hopc =>
    have hnone : storedWord s w a = none := by simp [storedWord, hopc]
    rw [hnone]
    rfl

/-- The executed word keeps the canonical form: it changes memory by writes and pushes only (R54). -/
theorem Executes.keeps_memory_wf (h : Executes w s u) (hwf : Memory.wf s.mem = true) : Memory.wf u.mem = true := by
  cases h
  case storeAbs | storeInd => exact memWrite_wf _ _ _ hwf
  case push => exact pushWord_wf _ _ hwf
  case call =>
    have hreturn := pushWord_wf (returnAddress s) s hwf
    exact pushWord_wf _ (setPc _ (pushWord _ s)) hreturn
  case syscall =>
    have hflags := pushWord_wf (flagsWord s) s hwf
    exact Memory.wf_insert _ _ _ hflags
  all_goals exact hwf

end

/-! ### The last access (R53) -/

/-- The latest access was to `a`, and recorded what memory holds there (R53). -/
def AccessedLast (a : Addr) (s : State) : Prop := s.lastAccess = some (a, peek s a)

theorem accessedLast_memRead (a : Word) (s : State) : AccessedLast (maskAddr a) (memRead a s).2 := rfl

theorem accessedLast_memWrite (a v : Word) (s : State) : AccessedLast (maskAddr a) (memWrite a v s) := by
  rw [AccessedLast, memWrite_lastAccess, peek_memWrite, if_pos rfl]

theorem accessedLast_afterFetch (s : State) : AccessedLast (s.pc.setWidth 24) (afterFetch s) := by
  rw [← maskAddr_eq]
  rfl

/-- The fetched word's last access, or the fetch where it makes none (R54). -/
theorem Executes.accessedLast {w : Word} {s u : State} (h : Executes w (afterFetch s) u) :
    AccessedLast (lastAddr s w) u := by
  cases h
  case loadAbs hopc =>
    have haddr : lastAddr s w = maskAddr (absoluteAddr (immBits w)) := by
      simp [lastAddr, hopc, maskAddr_absoluteAddr]
    rw [haddr]
    exact accessedLast_memRead _ (afterFetch s)
  case loadInd hopc =>
    have haddr : lastAddr s w = maskAddr (indirectAddr (sr2Bits w) s) := by simp [lastAddr, hopc, indirectAddr]
    rw [haddr]
    exact accessedLast_memRead _ (afterFetch s)
  case storeAbs hopc =>
    have haddr : lastAddr s w = maskAddr (absoluteAddr (immBits w)) := by
      simp [lastAddr, hopc, maskAddr_absoluteAddr]
    rw [haddr]
    exact accessedLast_memWrite _ _ _
  case storeInd hopc =>
    have haddr : lastAddr s w = maskAddr (indirectAddr (sr2Bits w) s) := by simp [lastAddr, hopc, indirectAddr]
    rw [haddr]
    exact accessedLast_memWrite _ _ _
  case push hopc hsop =>
    have haddr : lastAddr s w = maskAddr (s.sp - 1) := by simp [lastAddr, hopc, hsop]
    rw [haddr]
    exact accessedLast_memWrite _ _ _
  case pop hopc hsop | peek hopc hsop =>
    have haddr : lastAddr s w = maskAddr s.sp := by simp [lastAddr, hopc, hsop]
    rw [haddr]
    exact accessedLast_memRead _ (afterFetch s)
  case call hopc hs =>
    have haddr : lastAddr s w = maskAddr (s.sp - 2) := by simp [lastAddr, hopc, hs]
    rw [haddr, ← sub_one_sub_one]
    exact accessedLast_memWrite _ _ _
  case ret hopc hs =>
    have haddr : lastAddr s w = maskAddr (s.sp + 1) := by simp [lastAddr, hopc, hs]
    rw [haddr]
    exact accessedLast_memRead _ (popWord (afterFetch s)).2
  case syscall hopc hs =>
    have haddr : lastAddr s w = maskAddr Config.argAddr := by simp [lastAddr, hopc, hs, maskAddr_argAddr]
    rw [haddr]
    exact accessedLast_memWrite _ _ _
  case reti hopc hs =>
    have haddr : lastAddr s w = maskAddr s.sp := by simp [lastAddr, hopc, hs]
    rw [haddr]
    exact accessedLast_memRead _ (afterFetch s)
  case szero hopc hsop =>
    have haddr : lastAddr s w = s.pc.setWidth 24 := by simp [lastAddr, hopc, hsop]
    rw [haddr]
    exact accessedLast_afterFetch s
  case nop hopc | add hopc _ | alu hopc _ _ | compare hopc _ _ | jump hopc | loadImm hopc | mov hopc | rsv10 hopc |
      rsv11 hopc | halt hopc =>
    have haddr : lastAddr s w = s.pc.setWidth 24 := by simp [lastAddr, hopc]
    rw [haddr]
    exact accessedLast_afterFetch s

/-! ### What a step leaves in memory -/

/-- After a step each word of memory reads as the word the instruction stored there, else as before. -/
theorem step_peek {s t : State} (h : step s = .next t) (a : Addr) :
    peek t a = (storedWord s (wordAt s) a).getD (peek s a) := by
  obtain ⟨-, u, hu, rfl⟩ := step_executes h
  rw [peek_account, hu.peek_eq]

/-- The scratch holds the word the step fetched (R107). -/
theorem step_scratch_word {s t : State} (h : step s = .next t) : t.scratch.word = wordAt s := by
  obtain ⟨-, u, hu, rfl⟩ := step_executes h
  cases hu <;> exact (wordAt_eq s).symm

/-- Settles O12: fetch and accounting keep memory, and the executed word keeps its form. -/
theorem stepKeepsMemoryCanonical : Obligations.StepKeepsMemoryCanonical := by
  intro s t hwf h
  obtain ⟨-, u, hu, rfl⟩ := step_executes h
  exact hu.keeps_memory_wf hwf

/-- Settles O26: an address outside the stored ones has no stored word. -/
theorem stepMemoryFrame : Obligations.StepMemoryFrame := by
  intro s t a h ha
  have hnone : storedWord s (wordAt s) a = none :=
    Option.eq_none_iff_forall_ne_some.2 fun v hv => ha ((mem_storedAddrs_iff _ _ _).2 ⟨v, hv⟩)
  rw [step_peek h, hnone, Option.getD_none]

/-- Settles O24: the executed word's last access, which the accounting keeps. -/
theorem lastAccessOfStep : Obligations.LastAccessOfStep := by
  intro s t h
  obtain ⟨-, u, hu, rfl⟩ := step_executes h
  exact hu.accessedLast

/-- Settles O32: a stored word is read back by `step_peek`, so it is the word at the next `pc`. -/
theorem storeSeenByNextFetch : Obligations.StoreSeenByNextFetch := by
  intro s t h
  have hread : ∀ a v, storedWord s (wordAt s) a = some v → peek t a = v := fun a v hv => by
    rw [step_peek h, hv, Option.getD_some]
  refine ⟨mem_storedAddrs_iff s (wordAt s), hread, fun u v hv hu => ?_⟩
  rw [step_scratch_word hu, wordAt, hread _ v hv]

end Sys2Proof.Machine
end

section
/-! The obligations on the encoding (30_encoding.md). `DecodesTo` says what fields a word has when it decodes to an
instruction, and `DecodesTo.decode_eq` is its converse; so a claim on the decoder is one on how fields are read from
canonical words (R89), from masked words (R75, R76) and from the rows of the opcode table. An assembly line is accepted
exactly where the disassembler writes it (R87, R90). -/

namespace Sys2Proof

open Sys2Proof.Machine Sys2Proof.Claims

variable {w : Word}

/-! ### The decoder is `DecodesTo` (R78 to R83) -/

theorem decode_of_alu (h : opcOf w = 1) : decode w = decodeAlu w := by simp [decode, h]
theorem decode_of_compare (h : opcOf w = 2) : decode w = decodeCompare w := by simp [decode, h]
theorem decode_of_jumpImm (h : opcOf w = 3) (hjm : jmOf w = 0) : decode w = decodeJumpImm w := by simp [decode, h, hjm]
theorem decode_of_jumpReg (h : opcOf w = 3) (hjm : jmOf w = 1) : decode w = decodeJumpReg w := by simp [decode, h, hjm]
theorem decode_of_stack (h : opcOf w = 12) : decode w = decodeStack w := by simp [decode, h]

theorem decodeCompare_of_five_le (h : 5 ≤ (fnOf w).toNat) :
    decodeCompare w = .ok (.cmpnv (fnOf w) (sr1Of w) (sr2Of w)) := by
  unfold decodeCompare
  split
  case h_6 => rfl
  all_goals omega

/-- A word whose fields are an instruction's decodes to it: the converse of `decode_shape`. -/
theorem DecodesTo.decode_eq {i : Instr} (h : DecodesTo w i) : decode w = .ok i := by
  cases i
  case add | sub | mul | and | or | nand | xor | xnor | shl | shr | asr | rol | ror =>
    obtain ⟨hopc, hfn, rfl, rfl, rfl⟩ := h
    rw [decode_of_alu hopc, decodeAlu, hfn]
    rfl
  case neg | not =>
    obtain ⟨hopc, hfn, rfl, rfl⟩ := h
    rw [decode_of_alu hopc, decodeAlu, hfn]
    rfl
  case zero =>
    obtain ⟨hopc, hfn, rfl⟩ := h
    rw [decode_of_alu hopc, decodeAlu, hfn]
    rfl
  case cmpgt | cmpeq | cmplt | cmpge | cmple =>
    obtain ⟨hopc, hfn, rfl, rfl⟩ := h
    rw [decode_of_compare hopc, decodeCompare, hfn]
    rfl
  case cmpnv =>
    obtain ⟨hopc, hfn, rfl, rfl, rfl⟩ := h
    rw [decode_of_compare hopc, decodeCompare_of_five_le hfn]
  case jmp | jc | jnc | jcmp | jncmp | jz | jnz | jmpa =>
    obtain ⟨hopc, hjc, hjm, rfl⟩ := h
    rw [decode_of_jumpImm hopc hjm, decodeJumpImm, hjc]
    rfl
  case jmpr | jcr | jncr | jcmpr | jncmpr | jzr | jnzr | jmpar =>
    obtain ⟨hopc, hjc, hjm, rfl⟩ := h
    rw [decode_of_jumpReg hopc hjm, decodeJumpReg, hjc]
    rfl
  case push | pop | peek | szero =>
    obtain ⟨hopc, hsop, rfl⟩ := h
    rw [decode_of_stack hopc, decodeStack, hsop]
    rfl
  case loadAbs | loadInd | loadImm | storeAbs | storeInd | mov =>
    obtain ⟨hopc, rfl, rfl⟩ := h
    rw [decode, hopc]
    rfl
  case call | syscall =>
    obtain ⟨hopc, hs, rfl⟩ := h
    rw [decode, hopc, hs]
    rfl
  case ret | reti =>
    obtain ⟨hopc, hs⟩ := h
    rw [decode, hopc, hs]
    rfl
  case nop | rsv10 | rsv11 | halt =>
    rw [DecodesTo] at h
    rw [decode, h]
    rfl

/-! ### The fields of canonical words (R89) -/

theorem encodeR_fields (opc : BitVec 4) (dr sr1 sr2 : Reg) (fn : BitVec 4) :
    opcOf (encodeR opc dr sr1 sr2 fn) = opc ∧ drOf (encodeR opc dr sr1 sr2 fn) = dr ∧
      sr1Of (encodeR opc dr sr1 sr2 fn) = sr1 ∧ sr2Of (encodeR opc dr sr1 sr2 fn) = sr2 ∧
      fnOf (encodeR opc dr sr1 sr2 fn) = fn := by
  simp [encodeR, opcOf, drOf, sr1Of, sr2Of, fnOf, field_or, field_put_same, field_put_apart, layout]

theorem encodeJ_fields (jc : BitVec 3) (imm24 : Imm) :
    opcOf (encodeJ jc imm24) = 3 ∧ jmOf (encodeJ jc imm24) = 0 ∧ jcOf (encodeJ jc imm24) = jc ∧
      immOf (encodeJ jc imm24) = imm24 := by
  simp [encodeJ, opcOf, jmOf, jcOf, immOf, field_or, field_put_same, field_put_apart, layout]

theorem encodeJR_fields (jc : BitVec 3) (sr2 : Reg) :
    opcOf (encodeJR jc sr2) = 3 ∧ jmOf (encodeJR jc sr2) = 1 ∧ jcOf (encodeJR jc sr2) = jc ∧
      sr2Of (encodeJR jc sr2) = sr2 := by
  simp [encodeJR, opcOf, jmOf, jcOf, sr2Of, field_or, field_put_same, field_put_apart, layout]

theorem encodeI_fields (opc : BitVec 4) (dr : Reg) (imm24 : Imm) :
    opcOf (encodeI opc dr imm24) = opc ∧ drOf (encodeI opc dr imm24) = dr ∧ immOf (encodeI opc dr imm24) = imm24 := by
  simp [encodeI, opcOf, drOf, immOf, field_or, field_put_same, field_put_apart, layout]

theorem encodeK_fields (dr sr1 : Reg) (sop : BitVec 2) :
    opcOf (encodeK dr sr1 sop) = 12 ∧ drOf (encodeK dr sr1 sop) = dr ∧ sr1Of (encodeK dr sr1 sop) = sr1 ∧
      sopOf (encodeK dr sr1 sop) = sop := by
  simp [encodeK, opcOf, drOf, sr1Of, sopOf, field_or, field_put_same, field_put_apart, layout]

theorem encodeT_fields (opc : BitVec 4) (s : BitVec 1) (imm24 : Imm) :
    opcOf (encodeT opc s imm24) = opc ∧ sOf (encodeT opc s imm24) = s ∧ immOf (encodeT opc s imm24) = imm24 := by
  simp [encodeT, opcOf, sOf, immOf, field_or, field_put_same, field_put_apart, layout]

/-- A STORE_ABS word carries the source register in the top four bits of its address (R77). -/
theorem sr1Of_encodeI (opc : BitVec 4) (dr : Reg) (imm24 : Imm) :
    sr1Of (encodeI opc dr imm24) = storeAbsSource imm24 := by
  obtain ⟨-, -, himm⟩ := encodeI_fields opc dr imm24
  rw [sr1Of_eq_storeAbsSource, himm]

/-- The canonical word of a well-formed instruction has the instruction's fields. -/
theorem decodesTo_encode {i : Instr} (h : i.wellFormed = true) : DecodesTo (encode i) i := by
  cases i
  case cmpnv => simpa [DecodesTo, encode, encodeR_fields] using of_decide_eq_true h
  case storeAbs => simpa [DecodesTo, encode, encodeI_fields, sr1Of_encodeI] using eq_of_beq h
  case add | sub | mul | neg | and | or | not | nand | xor | xnor | shl | shr | asr | rol | ror | zero | cmpgt | cmpeq |
      cmplt | cmpge | cmple | loadInd | storeInd | mov =>
    simp [DecodesTo, encode, encodeR_fields]
  case jmp | jc | jnc | jcmp | jncmp | jz | jnz | jmpa => simp [DecodesTo, encode, encodeJ_fields]
  case jmpr | jcr | jncr | jcmpr | jncmpr | jzr | jnzr | jmpar => simp [DecodesTo, encode, encodeJR_fields]
  case loadAbs | loadImm => simp [DecodesTo, encode, encodeI_fields]
  case push | pop | peek | szero => simp [DecodesTo, encode, encodeK_fields]
  case nop | rsv10 | rsv11 | call | ret | syscall | reti | halt => simp [DecodesTo, encode, encodeT_fields]

/-- Settles O2: the canonical word has the instruction's fields, and the decoder reads the instruction from them. -/
theorem encodeThenDecode : Obligations.EncodeThenDecode := fun _ h => (decodesTo_encode h).decode_eq

/-! ### Every word decodes (R85) -/

theorem decodeAlu_total (w : Word) : ∃ i, decodeAlu w = .ok i := by
  have hfn := (fnOf w).isLt
  unfold decodeAlu
  split
  case h_17 => grind
  all_goals exact ⟨_, rfl⟩

theorem decodeCompare_total (w : Word) : ∃ i, decodeCompare w = .ok i := by
  unfold decodeCompare
  split <;> exact ⟨_, rfl⟩

theorem decodeJumpImm_total (w : Word) : ∃ i, decodeJumpImm w = .ok i := by
  have hjc := (jcOf w).isLt
  unfold decodeJumpImm
  split
  case h_9 => grind
  all_goals exact ⟨_, rfl⟩

theorem decodeJumpReg_total (w : Word) : ∃ i, decodeJumpReg w = .ok i := by
  have hjc := (jcOf w).isLt
  unfold decodeJumpReg
  split
  case h_9 => grind
  all_goals exact ⟨_, rfl⟩

theorem decodeStack_total (w : Word) : ∃ i, decodeStack w = .ok i := by
  have hsop := (sopOf w).isLt
  unfold decodeStack
  split
  case h_5 => grind
  all_goals exact ⟨_, rfl⟩

theorem decode_total (w : Word) : ∃ i, decode w = .ok i := by
  have hopc := (opcOf w).isLt
  unfold decode
  split
  case h_2 => exact decodeAlu_total w
  case h_3 => exact decodeCompare_total w
  case h_4 =>
    split
    · exact decodeJumpImm_total w
    · exact decodeJumpReg_total w
  case h_13 => exact decodeStack_total w
  case h_14 | h_15 => split <;> exact ⟨_, rfl⟩
  case h_17 => grind
  all_goals exact ⟨_, rfl⟩

/-- The two checks of `wellFormed` hold of what a word decodes to (R77, R80). -/
theorem DecodesTo.wellFormed {i : Instr} (h : DecodesTo w i) : i.wellFormed = true := by
  cases i
  case cmpnv =>
    obtain ⟨-, hfn, rfl, -, -⟩ := h
    exact decide_eq_true hfn
  case storeAbs =>
    obtain ⟨-, rfl, rfl⟩ := h
    exact beq_iff_eq.2 (sr1Of_eq_storeAbsSource w)
  all_goals rfl

/-- Settles O3: the decoder is total, and the fields of any word pass the two checks. -/
theorem everyWordDecodes : Obligations.EveryWordDecodes := fun w =>
  have ⟨i, hi⟩ := decode_total w
  ⟨i, hi, (decode_shape hi).wellFormed⟩

/-! ### Ignored bits (R75, R76) -/

/-- A mask that covers a field leaves it as it is. -/
theorem field_and_of_covers {lo n : Nat} {m : Word} (h : field lo n m = BitVec.allOnes n) (w : Word) :
    field lo n (w &&& m) = field lo n w := by
  rw [field, BitVec.extractLsb'_and, ← field, ← field, h, BitVec.and_allOnes]

section
variable {m : Word}

theorem opcOf_and (h : opcOf m = BitVec.allOnes _) (w : Word) : opcOf (w &&& m) = opcOf w := field_and_of_covers h w
theorem drOf_and (h : drOf m = BitVec.allOnes _) (w : Word) : drOf (w &&& m) = drOf w := field_and_of_covers h w
theorem sr1Of_and (h : sr1Of m = BitVec.allOnes _) (w : Word) : sr1Of (w &&& m) = sr1Of w := field_and_of_covers h w
theorem sr2Of_and (h : sr2Of m = BitVec.allOnes _) (w : Word) : sr2Of (w &&& m) = sr2Of w := field_and_of_covers h w
theorem immOf_and (h : immOf m = BitVec.allOnes _) (w : Word) : immOf (w &&& m) = immOf w := field_and_of_covers h w
theorem fnOf_and (h : fnOf m = BitVec.allOnes _) (w : Word) : fnOf (w &&& m) = fnOf w := field_and_of_covers h w
theorem sopOf_and (h : sopOf m = BitVec.allOnes _) (w : Word) : sopOf (w &&& m) = sopOf w := field_and_of_covers h w
theorem jmOf_and (h : jmOf m = BitVec.allOnes _) (w : Word) : jmOf (w &&& m) = jmOf w := field_and_of_covers h w
theorem jcOf_and (h : jcOf m = BitVec.allOnes _) (w : Word) : jcOf (w &&& m) = jcOf w := field_and_of_covers h w
theorem sOf_and (h : sOf m = BitVec.allOnes _) (w : Word) : sOf (w &&& m) = sOf w := field_and_of_covers h w

end

/-- The fields an instruction is read from lie in the bits its form uses (R76). -/
theorem decodesTo_and_usedBits (w : Word) (i : Instr) : DecodesTo (w &&& usedBits i.mnemonic) i ↔ DecodesTo w i := by
  cases i <;>
    simp (disch := decide) only [DecodesTo, Instr.mnemonic, usedBits, opcOf_and, drOf_and, sr1Of_and, sr2Of_and,
      immOf_and, fnOf_and, sopOf_and, jmOf_and, jcOf_and, sOf_and]

/-- Settles O5: both words have the instruction's fields as soon as the masked word has. -/
theorem ignoredBitsHaveNoEffect : Obligations.IgnoredBitsHaveNoEffect := by
  intro v w i hw hvw
  have hmasked : DecodesTo (w &&& usedBits i.mnemonic) i := (decodesTo_and_usedBits w i).2 (decode_shape hw)
  rw [← hvw, decodesTo_and_usedBits] at hmasked
  exact hmasked.decode_eq

/-! ### Encoding a decoded word (R76, R89): each field put back is the word's bits there -/

section
variable {opc fn : BitVec 4} {jc : BitVec 3} {sop : BitVec 2} {jm s : BitVec 1}

theorem put_opcOf (h : opcOf w = opc) : put layout.opcLo opc = w &&& 0xF0000000 := h ▸ put_field 28 4 w
theorem put_fnOf (h : fnOf w = fn) : put layout.fnLo fn = w &&& 0xF := h ▸ put_field 0 4 w
theorem put_sopOf (h : sopOf w = sop) : put layout.sopLo sop = w &&& 0x3 := h ▸ put_field 0 2 w
theorem put_jmOf (h : jmOf w = jm) : put layout.jmLo jm = w &&& 0x08000000 := h ▸ put_field 27 1 w
theorem put_jcOf (h : jcOf w = jc) : put layout.jcLo jc = w &&& 0x07000000 := h ▸ put_field 24 3 w
theorem put_sOf (h : sOf w = s) : put layout.sLo s = w &&& 0x01000000 := h ▸ put_field 24 1 w
theorem put_drOf (w : Word) : put layout.drLo (drOf w) = w &&& 0x0F000000 := put_field 24 4 w
theorem put_sr1Of (w : Word) : put layout.sr1Lo (sr1Of w) = w &&& 0x00F00000 := put_field 20 4 w
theorem put_sr2Of (w : Word) : put layout.sr2Lo (sr2Of w) = w &&& 0x000F0000 := put_field 16 4 w
theorem put_immOf (w : Word) : put layout.immLo (immOf w) = w &&& 0x00FFFFFF := put_field 0 24 w

end

/-- A field the form ignores is 0 in the canonical word. -/
theorem put_ignored {lo n : Nat} (w : Word) : put lo (0 : BitVec n) = w &&& 0 := by simp [put]

/-! Each form, of the word's own fields, is the word masked. A field that some instructions of the form ignore brings its
own mask, which is 0 for those; for each instruction the masks make up `usedBits`. -/

theorem encodeR_eq_and {opc fn : BitVec 4} {dr sr1 sr2 : Reg} {mdr m1 m2 mfn : Word} (hopc : opcOf w = opc)
    (hdr : put layout.drLo dr = w &&& mdr) (h1 : put layout.sr1Lo sr1 = w &&& m1)
    (h2 : put layout.sr2Lo sr2 = w &&& m2) (hfn : put layout.fnLo fn = w &&& mfn) :
    encodeR opc dr sr1 sr2 fn = w &&& (0xF0000000 ||| mdr ||| m1 ||| m2 ||| mfn) := by
  simp only [encodeR, put_opcOf hopc, hdr, h1, h2, hfn, BitVec.and_or_distrib_left]

/-- Form J writes no `jm`, which is 0 in the word too. -/
theorem encodeJ_eq_and {jc : BitVec 3} (hopc : opcOf w = 3) (hjc : jcOf w = jc) (hjm : jmOf w = 0) :
    encodeJ jc (immOf w) = w &&& 0xFFFFFFFF :=
  calc encodeJ jc (immOf w)
    _ = encodeJ jc (immOf w) ||| put layout.jmLo (0 : BitVec 1) := by simp [put]
    _ = w &&& (0xF0000000 ||| 0x07000000 ||| 0x00FFFFFF ||| 0x08000000) := by
      simp only [encodeJ, put_opcOf hopc, put_jcOf hjc, put_immOf, put_jmOf hjm, BitVec.and_or_distrib_left]

theorem encodeJR_eq_and {jc : BitVec 3} (hopc : opcOf w = 3) (hjc : jcOf w = jc) (hjm : jmOf w = 1) :
    encodeJR jc (sr2Of w) = w &&& (0xF0000000 ||| 0x08000000 ||| 0x07000000 ||| 0x000F0000) := by
  simp only [encodeJR, put_opcOf hopc, put_jmOf hjm, put_jcOf hjc, put_sr2Of, BitVec.and_or_distrib_left]

theorem encodeI_eq_and {opc : BitVec 4} {dr : Reg} {mdr : Word} (hopc : opcOf w = opc)
    (hdr : put layout.drLo dr = w &&& mdr) :
    encodeI opc dr (immOf w) = w &&& (0xF0000000 ||| mdr ||| 0x00FFFFFF) := by
  simp only [encodeI, put_opcOf hopc, hdr, put_immOf, BitVec.and_or_distrib_left]

theorem encodeK_eq_and {dr sr1 : Reg} {sop : BitVec 2} {mdr m1 : Word} (hopc : opcOf w = 12) (hsop : sopOf w = sop)
    (hdr : put layout.drLo dr = w &&& mdr) (h1 : put layout.sr1Lo sr1 = w &&& m1) :
    encodeK dr sr1 sop = w &&& (0xF0000000 ||| mdr ||| m1 ||| 0x3) := by
  simp only [encodeK, put_opcOf hopc, hdr, h1, put_sopOf hsop, BitVec.and_or_distrib_left]

theorem encodeT_eq_and {opc : BitVec 4} {s : BitVec 1} {imm24 : Imm} {ms mimm : Word} (hopc : opcOf w = opc)
    (hs : put layout.sLo s = w &&& ms) (himm : put layout.immLo imm24 = w &&& mimm) :
    encodeT opc s imm24 = w &&& (0xF0000000 ||| ms ||| mimm) := by
  simp only [encodeT, put_opcOf hopc, hs, himm, BitVec.and_or_distrib_left]

/-- Encoding the fields a word has keeps the word's bits there and clears the rest. -/
theorem DecodesTo.encode_eq {i : Instr} (h : DecodesTo w i) : encode i = w &&& usedBits i.mnemonic := by
  cases i
  case add | sub | mul | and | or | nand | xor | xnor | shl | shr | asr | rol | ror =>
    obtain ⟨hopc, hfn, rfl, rfl, rfl⟩ := h
    exact encodeR_eq_and hopc (put_drOf w) (put_sr1Of w) (put_sr2Of w) (put_fnOf hfn)
  case neg | not =>
    obtain ⟨hopc, hfn, rfl, rfl⟩ := h
    exact encodeR_eq_and hopc (put_drOf w) (put_sr1Of w) (put_ignored w) (put_fnOf hfn)
  case zero =>
    obtain ⟨hopc, hfn, rfl⟩ := h
    exact encodeR_eq_and hopc (put_drOf w) (put_ignored w) (put_ignored w) (put_fnOf hfn)
  case cmpgt | cmpeq | cmplt | cmpge | cmple =>
    obtain ⟨hopc, hfn, rfl, rfl⟩ := h
    exact encodeR_eq_and hopc (put_ignored w) (put_sr1Of w) (put_sr2Of w) (put_fnOf hfn)
  case cmpnv =>
    obtain ⟨hopc, -, rfl, rfl, rfl⟩ := h
    exact encodeR_eq_and hopc (put_ignored w) (put_sr1Of w) (put_sr2Of w) (put_fnOf rfl)
  case jmp | jc | jnc | jcmp | jncmp | jz | jnz | jmpa =>
    obtain ⟨hopc, hjc, hjm, rfl⟩ := h
    exact encodeJ_eq_and hopc hjc hjm
  case jmpr | jcr | jncr | jcmpr | jncmpr | jzr | jnzr | jmpar =>
    obtain ⟨hopc, hjc, hjm, rfl⟩ := h
    exact encodeJR_eq_and hopc hjc hjm
  case loadAbs | loadImm =>
    obtain ⟨hopc, rfl, rfl⟩ := h
    exact encodeI_eq_and hopc (put_drOf w)
  case loadInd =>
    obtain ⟨hopc, rfl, rfl⟩ := h
    exact encodeR_eq_and hopc (put_drOf w) (put_ignored w) (put_sr2Of w) (put_ignored w)
  case storeAbs =>
    obtain ⟨hopc, -, rfl⟩ := h
    exact encodeI_eq_and hopc (put_ignored w)
  case storeInd =>
    obtain ⟨hopc, rfl, rfl⟩ := h
    exact encodeR_eq_and hopc (put_ignored w) (put_sr1Of w) (put_sr2Of w) (put_ignored w)
  case mov =>
    obtain ⟨hopc, rfl, rfl⟩ := h
    exact encodeR_eq_and hopc (put_drOf w) (put_sr1Of w) (put_ignored w) (put_ignored w)
  case push =>
    obtain ⟨hopc, hsop, rfl⟩ := h
    exact encodeK_eq_and hopc hsop (put_ignored w) (put_sr1Of w)
  case pop | peek | szero =>
    obtain ⟨hopc, hsop, rfl⟩ := h
    exact encodeK_eq_and hopc hsop (put_drOf w) (put_ignored w)
  case call | syscall =>
    obtain ⟨hopc, hs, rfl⟩ := h
    exact encodeT_eq_and hopc (put_sOf hs) (put_immOf w)
  case ret | reti =>
    obtain ⟨hopc, hs⟩ := h
    exact encodeT_eq_and hopc (put_sOf hs) (put_ignored w)
  case nop | rsv10 | rsv11 | halt => exact encodeT_eq_and h (put_ignored w) (put_ignored w)

/-- Settles O4: every field the decoder read is put back where it stood. -/
theorem reencodingClearsIgnoredBits : Obligations.ReencodingClearsIgnoredBits := fun _ _ h =>
  (decode_shape h).encode_eq

/-! ### The opcode table -/

/-- Some row of the opcode table with this mnemonic has the word. -/
def HasRow (w : Word) (m : Mnemonic) : Prop := ∃ row ∈ opcodeTable, row.matches w = true ∧ row.mnemonic = m

theorem hasRow_of_mem {m : Mnemonic} {mask pattern : Word} (hw : w &&& mask = pattern)
    (hmem : ⟨m, mask, pattern⟩ ∈ opcodeTable) : HasRow w m :=
  ⟨_, hmem, beq_iff_eq.2 hw, rfl⟩

section
variable {m : Mnemonic} {opc : BitVec 4}

theorem hasRow_of_opc (hopc : opcOf w = opc) (hmem : ⟨m, 0xF0000000, put layout.opcLo opc⟩ ∈ opcodeTable) :
    HasRow w m :=
  hasRow_of_mem (put_opcOf hopc).symm hmem

theorem and_opc_fn {fn : BitVec 4} (hopc : opcOf w = opc) (hfn : fnOf w = fn) :
    w &&& 0xF000000F = put layout.opcLo opc ||| put layout.fnLo fn := by
  rw [put_opcOf hopc, put_fnOf hfn, ← BitVec.and_or_distrib_left]
  rfl

theorem hasRow_of_fn {fn : BitVec 4} (hopc : opcOf w = opc) (hfn : fnOf w = fn)
    (hmem : ⟨m, 0xF000000F, put layout.opcLo opc ||| put layout.fnLo fn⟩ ∈ opcodeTable) : HasRow w m :=
  hasRow_of_mem (and_opc_fn hopc hfn) hmem

theorem hasRow_of_jump {jm : BitVec 1} {jc : BitVec 3} (hopc : opcOf w = opc) (hjc : jcOf w = jc) (hjm : jmOf w = jm)
    (hmem : ⟨m, 0xFF000000, put layout.opcLo opc ||| put layout.jmLo jm ||| put layout.jcLo jc⟩ ∈ opcodeTable) :
    HasRow w m := by
  refine hasRow_of_mem ?_ hmem
  rw [put_opcOf hopc, put_jmOf hjm, put_jcOf hjc, ← BitVec.and_or_distrib_left, ← BitVec.and_or_distrib_left]
  rfl

theorem hasRow_of_sop {sop : BitVec 2} (hopc : opcOf w = opc) (hsop : sopOf w = sop)
    (hmem : ⟨m, 0xF0000003, put layout.opcLo opc ||| put layout.sopLo sop⟩ ∈ opcodeTable) : HasRow w m := by
  refine hasRow_of_mem ?_ hmem
  rw [put_opcOf hopc, put_sopOf hsop, ← BitVec.and_or_distrib_left]
  rfl

theorem hasRow_of_s {s : BitVec 1} (hopc : opcOf w = opc) (hs : sOf w = s)
    (hmem : ⟨m, 0xF1000000, put layout.opcLo opc ||| put layout.sLo s⟩ ∈ opcodeTable) : HasRow w m := by
  refine hasRow_of_mem ?_ hmem
  rw [put_opcOf hopc, put_sOf hs, ← BitVec.and_or_distrib_left]
  rfl

end

/-- The three CMPNV rows take every selector from 5 up between them (R80). -/
theorem cmpnvRow_of_five_le (fn : BitVec 4) (h : 5 ≤ fn.toNat) :
    ∃ row ∈ opcodeTable, row.mnemonic = .cmpnv ∧ 0xF000000F &&& row.mask = row.mask ∧
      (put layout.opcLo (2 : BitVec 4) ||| put layout.fnLo fn) &&& row.mask = row.pattern := by
  revert fn
  decide

theorem hasRow_cmpnv (hopc : opcOf w = 2) (hfn : 5 ≤ (fnOf w).toNat) : HasRow w .cmpnv := by
  obtain ⟨row, hmem, hm, hmask, hpattern⟩ := cmpnvRow_of_five_le _ hfn
  refine ⟨row, hmem, beq_iff_eq.2 ?_, hm⟩
  rw [← hpattern, ← and_opc_fn hopc rfl, BitVec.and_assoc, hmask]

/-- A word has a row of the instruction it decodes to. -/
theorem DecodesTo.hasRow {i : Instr} (h : DecodesTo w i) : HasRow w i.mnemonic := by
  cases i <;> simp only [Instr.mnemonic]
  case cmpnv =>
    obtain ⟨hopc, hfn, -⟩ := h
    exact hasRow_cmpnv hopc hfn
  case add | sub | mul | neg | and | or | not | nand | xor | xnor | shl | shr | asr | rol | ror | zero | cmpgt | cmpeq |
      cmplt | cmpge | cmple =>
    obtain ⟨hopc, hfn, -⟩ := h
    exact hasRow_of_fn hopc hfn (by decide)
  case jmp | jc | jnc | jcmp | jncmp | jz | jnz | jmpa | jmpr | jcr | jncr | jcmpr | jncmpr | jzr | jnzr | jmpar =>
    obtain ⟨hopc, hjc, hjm, -⟩ := h
    exact hasRow_of_jump hopc hjc hjm (by decide)
  case loadAbs | loadInd | loadImm | storeAbs | storeInd | mov =>
    obtain ⟨hopc, -⟩ := h
    exact hasRow_of_opc hopc (by decide)
  case push | pop | peek | szero =>
    obtain ⟨hopc, hsop, -⟩ := h
    exact hasRow_of_sop hopc hsop (by decide)
  case call | syscall =>
    obtain ⟨hopc, hs, -⟩ := h
    exact hasRow_of_s hopc hs (by decide)
  case ret | reti =>
    obtain ⟨hopc, hs⟩ := h
    exact hasRow_of_s hopc hs (by decide)
  case nop | rsv10 | rsv11 | halt => exact hasRow_of_opc h (by decide)

/-- Two rows of the table that ask for the same bits where both look are one row. -/
theorem opcodeRow_eq_of_agree :
    ∀ r ∈ opcodeTable, ∀ q ∈ opcodeTable, r.pattern &&& q.mask = q.pattern &&& r.mask → r = q := by
  decide

/-- A word has at most one row. -/
theorem opcodeRow_unique {r q : OpcodeRow} (hr : r ∈ opcodeTable) (hq : q ∈ opcodeTable) (hrw : r.matches w = true)
    (hqw : q.matches w = true) : r = q := by
  refine opcodeRow_eq_of_agree r hr q hq ?_
  rw [← beq_iff_eq.1 hrw, ← beq_iff_eq.1 hqw, BitVec.and_assoc, BitVec.and_assoc, BitVec.and_comm r.mask]

/-- Settles O6: the decoded instruction's row, and no other has the word. -/
theorem decoderFollowsOpcodeTable : Obligations.DecoderFollowsOpcodeTable := by
  intro w
  obtain ⟨i, hi⟩ := decode_total w
  obtain ⟨row, hmem, hrow, hm⟩ := (decode_shape hi).hasRow
  exact ⟨row, hmem, hrow, fun other hother hw => opcodeRow_unique hother hmem hw hrow, i, hi, hm.symm⟩

/-! ### Words written out from the spec -/

/-- Settles O1: the decoder runs on each word. -/
theorem sampleWordsDecode : Obligations.SampleWordsDecode := by
  unfold Obligations.SampleWordsDecode
  decide

end Sys2Proof

namespace Sys2Proof.Machine

open Sys2Proof.Claims

/-! ### The step -/

/-- Settles O17: the word decodes, and no meaning faults. -/
theorem stepInMemoryCompletes : Obligations.StepInMemoryCompletes := by
  intro s hpc
  obtain ⟨i, hi⟩ := decode_total (fetchedWord s)
  obtain ⟨t, ht⟩ := exec_next i (afterFetch s)
  exact ⟨_, step_of_decode hpc hi ht⟩

/-! ### The assembler's forms (R87): each accepts exactly the operands the disassembler writes for it -/

theorem bind_ok_iff {α β : Type} {x : Except AsmError α} {f : α → Except AsmError β} {b : β} :
    (x >>= f) = .ok b ↔ ∃ a, x = .ok a ∧ f a = .ok b := by
  cases x <;> simp [bind, Except.bind]

theorem map_ok_iff {α β : Type} {x : Except AsmError α} {f : α → β} {b : β} :
    f <$> x = .ok b ↔ ∃ a, x = .ok a ∧ f a = b := by
  cases x <;> simp [Functor.map, Except.map]

/-- A number checked against its field's width is accepted as the value it is the number of. -/
theorem ofNat_checked_eq_ok_iff {k n : Nat} {e : AsmError} {v : BitVec k} :
    (if n < 2 ^ k then .ok (BitVec.ofNat k n) else .error e : Except AsmError (BitVec k)) = .ok v ↔ n = v.toNat := by
  constructor
  · intro h
    split at h
    next hn =>
      cases h
      exact (Nat.mod_eq_of_lt hn).symm
    next => cases h
  · rintro rfl
    rw [if_pos v.isLt, BitVec.ofNat_toNat, BitVec.setWidth_eq]

theorem asmReg_eq_ok_iff {n : Nat} {r : Reg} : asmReg n = .ok r ↔ n = r.toNat :=
  ofNat_checked_eq_ok_iff (k := 4)

theorem asmImm_eq_ok_iff {n : Nat} {a : Imm} : asmImm n = .ok a ↔ n = a.toNat :=
  ofNat_checked_eq_ok_iff (k := 24)

section
variable {l : List Operand} {i : Instr}

theorem asmNone_eq_ok_iff {j : Instr} : asmNone j l = .ok i ↔ l = [] ∧ j = i := by
  unfold asmNone
  split <;> simp_all

theorem asmOneReg_eq_ok_iff {f : Reg → Instr} : asmOneReg f l = .ok i ↔ ∃ a, l = [.reg a.toNat] ∧ f a = i := by
  unfold asmOneReg
  split
  · simp [map_ok_iff, asmReg_eq_ok_iff]
  · simp_all

theorem asmTwoReg_eq_ok_iff {f : Reg → Reg → Instr} :
    asmTwoReg f l = .ok i ↔ ∃ a b, l = [.reg a.toNat, .reg b.toNat] ∧ f a b = i := by
  unfold asmTwoReg
  split
  · simp [bind_ok_iff, map_ok_iff, asmReg_eq_ok_iff, and_assoc]
  · simp_all

theorem asmThreeReg_eq_ok_iff {f : Reg → Reg → Reg → Instr} :
    asmThreeReg f l = .ok i ↔ ∃ a b c, l = [.reg a.toNat, .reg b.toNat, .reg c.toNat] ∧ f a b c = i := by
  unfold asmThreeReg
  split
  · simp [bind_ok_iff, map_ok_iff, asmReg_eq_ok_iff, and_assoc]
  · simp_all

theorem asmNumber_eq_ok_iff {f : Imm → Instr} : asmNumber f l = .ok i ↔ ∃ a, l = [.number a.toNat] ∧ f a = i := by
  unfold asmNumber
  split
  · simp [map_ok_iff, asmImm_eq_ok_iff]
  · simp_all

theorem asmRegNumber_eq_ok_iff {f : Reg → Imm → Instr} :
    asmRegNumber f l = .ok i ↔ ∃ r a, l = [.reg r.toNat, .number a.toNat] ∧ f r a = i := by
  unfold asmRegNumber
  split
  · simp [bind_ok_iff, map_ok_iff, asmReg_eq_ok_iff, asmImm_eq_ok_iff, and_assoc]
  · simp_all

theorem asmRegAbsolute_eq_ok_iff {f : Reg → Imm → Instr} :
    asmRegAbsolute f l = .ok i ↔ ∃ r a, l = [.reg r.toNat, .absolute a.toNat] ∧ f r a = i := by
  unfold asmRegAbsolute
  split
  · simp [bind_ok_iff, map_ok_iff, asmReg_eq_ok_iff, asmImm_eq_ok_iff, and_assoc]
  · simp_all

theorem asmRegIndirect_eq_ok_iff {f : Reg → Reg → Instr} :
    asmRegIndirect f l = .ok i ↔ ∃ a b, l = [.reg a.toNat, .indirect b.toNat] ∧ f a b = i := by
  unfold asmRegIndirect
  split
  · simp [bind_ok_iff, map_ok_iff, asmReg_eq_ok_iff, and_assoc]
  · simp_all

theorem asmAbsoluteReg_eq_ok_iff {f : Reg → Imm → Instr} :
    asmAbsoluteReg f l = .ok i ↔ ∃ r a, l = [.absolute a.toNat, .reg r.toNat] ∧ f r a = i := by
  unfold asmAbsoluteReg
  split
  · simp [bind_ok_iff, map_ok_iff, asmReg_eq_ok_iff, asmImm_eq_ok_iff, and_assoc, and_left_comm]
  · simp_all

theorem asmIndirectReg_eq_ok_iff {f : Reg → Reg → Instr} :
    asmIndirectReg f l = .ok i ↔ ∃ a b, l = [.indirect b.toNat, .reg a.toNat] ∧ f a b = i := by
  unfold asmIndirectReg
  split
  · simp [bind_ok_iff, map_ok_iff, asmReg_eq_ok_iff, and_assoc, and_left_comm]
  · simp_all

end

/-! ### The assembler and the disassembler -/

/-- The assembler accepts only lines the disassembler writes. -/
theorem eq_disassemble_of_asmInstr {line : AsmLine} {i : Instr} (h : asmInstr line = .ok i) : line = disassemble i := by
  obtain ⟨m, l⟩ := line
  cases m
  case nop | rsv10 | rsv11 | ret | reti | halt =>
    obtain ⟨rfl, rfl⟩ := asmNone_eq_ok_iff.1 h
    rfl
  case zero | jmpr | jcr | jncr | jcmpr | jncmpr | jzr | jnzr | jmpar | push | pop | peek | szero =>
    obtain ⟨a, rfl, rfl⟩ := asmOneReg_eq_ok_iff.1 h
    rfl
  case neg | not | cmpgt | cmpeq | cmplt | cmpge | cmple | cmpnv | mov =>
    obtain ⟨a, b, rfl, rfl⟩ := asmTwoReg_eq_ok_iff.1 h
    rfl
  case add | sub | mul | and | or | nand | xor | xnor | shl | shr | asr | rol | ror =>
    obtain ⟨a, b, c, rfl, rfl⟩ := asmThreeReg_eq_ok_iff.1 h
    rfl
  case jmp | jc | jnc | jcmp | jncmp | jz | jnz | jmpa | call | syscall =>
    obtain ⟨a, rfl, rfl⟩ := asmNumber_eq_ok_iff.1 h
    rfl
  case loadAbs =>
    obtain ⟨r, a, rfl, rfl⟩ := asmRegAbsolute_eq_ok_iff.1 h
    rfl
  case loadInd =>
    obtain ⟨a, b, rfl, rfl⟩ := asmRegIndirect_eq_ok_iff.1 h
    rfl
  case loadImm =>
    obtain ⟨r, a, rfl, rfl⟩ := asmRegNumber_eq_ok_iff.1 h
    rfl
  case storeAbs =>
    obtain ⟨r, a, rfl, rfl⟩ := asmAbsoluteReg_eq_ok_iff.1 h
    rfl
  case storeInd =>
    obtain ⟨a, b, rfl, rfl⟩ := asmIndirectReg_eq_ok_iff.1 h
    rfl

/-- The assembler reads back what the disassembler writes, where a CMPNV has the selector 5 (R87). -/
theorem asmInstr_disassemble {i : Instr} (hfn : ∀ fn sr1 sr2, i = .cmpnv fn sr1 sr2 → fn = 5) :
    asmInstr (disassemble i) = .ok i := by
  cases i
  case nop | rsv10 | rsv11 | ret | reti | halt => exact asmNone_eq_ok_iff.2 ⟨rfl, rfl⟩
  case zero | jmpr | jcr | jncr | jcmpr | jncmpr | jzr | jnzr | jmpar | push | pop | peek | szero =>
    exact asmOneReg_eq_ok_iff.2 ⟨_, rfl, rfl⟩
  case neg | not | cmpgt | cmpeq | cmplt | cmpge | cmple | mov => exact asmTwoReg_eq_ok_iff.2 ⟨_, _, rfl, rfl⟩
  case cmpnv =>
    obtain rfl := hfn _ _ _ rfl
    exact asmTwoReg_eq_ok_iff.2 ⟨_, _, rfl, rfl⟩
  case add | sub | mul | and | or | nand | xor | xnor | shl | shr | asr | rol | ror =>
    exact asmThreeReg_eq_ok_iff.2 ⟨_, _, _, rfl, rfl⟩
  case jmp | jc | jnc | jcmp | jncmp | jz | jnz | jmpa | call | syscall =>
    exact asmNumber_eq_ok_iff.2 ⟨_, rfl, rfl⟩
  case loadAbs => exact asmRegAbsolute_eq_ok_iff.2 ⟨_, _, rfl, rfl⟩
  case loadInd => exact asmRegIndirect_eq_ok_iff.2 ⟨_, _, rfl, rfl⟩
  case loadImm => exact asmRegNumber_eq_ok_iff.2 ⟨_, _, rfl, rfl⟩
  case storeAbs => exact asmAbsoluteReg_eq_ok_iff.2 ⟨_, _, rfl, rfl⟩
  case storeInd => exact asmIndirectReg_eq_ok_iff.2 ⟨_, _, rfl, rfl⟩

/-- What the assembler accepts: a line of a well-formed instruction, as that instruction's canonical word (R90). -/
theorem assemble_eq_ok_iff {line : AsmLine} {w : Word} :
    assemble line = .ok w ↔ ∃ i, asmInstr line = .ok i ∧ i.wellFormed = true ∧ encode i = w := by
  unfold assemble
  cases asmInstr line with
  | error e => simp
  | ok i => cases hwf : i.wellFormed <;> simp [hwf]

/-- Settles O7: the assembler reads the instruction back and encodes it. -/
theorem disassemblyAssembles : Obligations.DisassemblyAssembles := fun i hwf hfn =>
  assemble_eq_ok_iff.2 ⟨i, asmInstr_disassemble hfn, hwf, rfl⟩

theorem operandFits_reg (r : Reg) : OperandFits (.reg r.toNat) := r.isLt
theorem operandFits_indirect (r : Reg) : OperandFits (.indirect r.toNat) := r.isLt
theorem operandFits_number (a : Imm) : OperandFits (.number a.toNat) := a.isLt
theorem operandFits_absolute (a : Imm) : OperandFits (.absolute a.toNat) := a.isLt

/-- The disassembler writes operands that fit: each is the number of a register or an immediate. -/
theorem operandFits_disassemble (i : Instr) : ∀ o ∈ (disassemble i).operands, OperandFits o := by
  cases i <;>
    simp [disassemble, operandFits_reg, operandFits_indirect, operandFits_number, operandFits_absolute]

/-- The source register of STORE_ABS as a number (R77). -/
theorem storeAbsSource_toNat (imm24 : Imm) : (storeAbsSource imm24).toNat = imm24.toNat / 2 ^ 20 := by
  rw [storeAbsSource_eq, BitVec.extractLsb'_toNat, Nat.shiftRight_eq_div_pow]
  omega

/-- Settles O8: an accepted line is the disassembled line of a well-formed instruction. -/
theorem assembledLinesFit : Obligations.AssembledLinesFit := by
  intro line w h
  obtain ⟨i, hi, hwf, -⟩ := assemble_eq_ok_iff.1 h
  obtain rfl := eq_disassemble_of_asmInstr hi
  refine ⟨operandFits_disassemble i, fun hm => ?_⟩
  cases i
  case storeAbs sr1 imm24 =>
    have hsource : sr1 = storeAbsSource imm24 := eq_of_beq hwf
    exact ⟨_, _, rfl, hsource ▸ storeAbsSource_toNat imm24⟩
  all_goals cases hm

end Sys2Proof.Machine
end

section
/-! The obligations on the fetch, the step and the host's operations (40_fetch_step.md). The executed word keeps what the
fetch and the accounting write, so `scratch`, `cycles` and the status of a step are read off `Executes` once each; the
invariant of a run is put together from these and the rules already proved of memory, the last access and `reti`. -/

namespace Sys2Proof.Machine

open Sys2Proof.Claims

section
variable {w : Word} {s t : State}

/-! ### What the executed word leaves to the fetch and the accounting -/

/-- No meaning writes the scratch, the cycle counter or the image (R107, R109). -/
theorem Executes.keeps_records (h : Executes w s t) :
    t.scratch = s.scratch ∧ t.cycles = s.cycles ∧ t.image = s.image := by
  cases h <;> exact ⟨rfl, rfl, rfl⟩

/-- A HALT changes the status, and no other class writes it (R110). -/
theorem Executes.status (h : Executes w s t) : t.status = if opcBits w = 15 then .halt else s.status := by
  by_cases hw : opcBits w = 15
  · rw [if_pos hw]
    cases h
    case halt => rfl
    all_goals simp_all
  · rw [if_neg hw]
    cases h
    case halt hopc => exact absurd hopc hw
    all_goals rfl

/-- The pc the executed word leaves: what its class writes over the advanced pc, else the advanced pc (R112). -/
theorem Executes.pc (h : Executes w (afterFetch s) t) : t.pc = nextPc s w := by
  cases h
  case jump hopc =>
    have hnext : nextPc s w = if condOf (jcBits w) s then jumpTarget w s else s.pc + 1 := by
      simp [nextPc, hopc, jumpTarget, registerTarget, immediateTarget, Config.addrMask]
    rw [hnext]
    rfl
  case call hopc hs =>
    have hnext : nextPc s w = immediateTarget (immBits w) := by simp [nextPc, hopc, hs, immediateTarget]
    rw [hnext]
    rfl
  case ret hopc hs =>
    have hnext : nextPc s w = Machine.peek s (maskAddr (s.sp + 1)) := by simp [nextPc, hopc, hs]
    rw [hnext]
    rfl
  case syscall hopc hs =>
    have hnext : nextPc s w = vectorWord s := by simp [nextPc, hopc, hs]
    rw [hnext, enterSyscall_pc, maskAddr_vectorAddr, vectorWord, ← flagsWord_eq_packedFlags]
    rfl
  case reti hopc hs =>
    have hnext : nextPc s w = s.reti := by simp [nextPc, hopc, hs]
    rw [hnext]
    rfl
  case nop hopc | add hopc _ | alu hopc _ _ | compare hopc _ _ | loadAbs hopc | loadInd hopc | loadImm hopc |
      storeAbs hopc | storeInd hopc | mov hopc | rsv10 hopc | rsv11 hopc | push hopc _ | pop hopc _ | peek hopc _ |
      szero hopc _ | halt hopc =>
    have hnext : nextPc s w = s.pc + 1 := by simp [nextPc, hopc]
    rw [hnext]
    rfl

/-! ### What a step records -/

theorem step_scratch (h : step s = .next t) : t.scratch = scratchOf (wordAt s) := by
  obtain ⟨-, u, hu, rfl⟩ := step_executes h
  rw [wordAt_eq]
  exact hu.keeps_records.1

theorem step_image (h : step s = .next t) : t.image = s.image := by
  obtain ⟨-, u, hu, rfl⟩ := step_executes h
  exact hu.keeps_records.2.2

theorem step_cycles (h : step s = .next t) : t.cycles = s.cycles + (2 + classCost (opcBits (wordAt s))) := by
  obtain ⟨-, u, hu, rfl⟩ := step_executes h
  obtain ⟨-, hcycles, -⟩ := hu.keeps_records
  exact congrArg (· + stepCost (wordAt s)) hcycles

theorem step_status (h : step s = .next t) : t.status = if opcBits (wordAt s) = 15 then .halt else .ok := by
  obtain ⟨-, u, hu, rfl⟩ := step_executes h
  exact hu.status

/-! ### The invariant of a run, by each operation of the host (R100) -/

/-- A step keeps every part of the invariant: memory, last access and `reti` by their own rules, and it writes the
scratch, the status that goes with it, and no image. -/
theorem runInvariant_step (hinv : RunInvariant s) (h : step s = .next t) : RunInvariant t where
  memory := stepKeepsMemoryCanonical s t hinv.memory h
  lastAccess := by
    intro a v hsome
    rw [lastAccessOfStep s t h] at hsome
    cases hsome
    rfl
  reti := stepKeepsRetiBounded s t hinv.reti h
  scratch := by
    rw [ScratchDecoded, step_scratch h]
    rfl
  status := by
    rw [StatusOfScratch, step_scratch h]
    exact step_status h
  image := by
    rw [ImageFits, step_image h]
    exact hinv.image

/-- Reset writes nothing the invariant speaks of (R282). -/
theorem runInvariant_hostReset (hinv : RunInvariant s) : RunInvariant (hostReset s) where
  memory := hinv.memory
  lastAccess := hinv.lastAccess
  reti := hinv.reti
  scratch := hinv.scratch
  status := hinv.status
  image := hinv.image

/-- A restart constructs again from the image, which the invariant says fits (R284). -/
theorem runInvariant_hostRestart (hinv : RunInvariant s) : RunInvariant (hostRestart s) :=
  runInvariant_construct _ (of_decide_eq_true hinv.image)

/-- A construction that is not refused has an image that fits (R280, R281). -/
theorem runInvariant_of_hostOp_construct {image : List Word} {logging : Bool} {clockSpeed : Nat}
    (h : hostOp (.construct image logging clockSpeed) s = .next t) : RunInvariant t := by
  rw [hostOp] at h
  split at h
  next hfits =>
    cases h
    exact runInvariant_construct _ (of_decide_eq_true hfits)
  next => cases h

end

/-- Settles O14: by the operation; a step by its own rules, the others by construction or by what they leave. -/
theorem hostOperationsKeepRunInvariant : Obligations.HostOperationsKeepRunInvariant := by
  intro op s t hinv h
  cases op with
  | construct image logging clockSpeed => exact runInvariant_of_hostOp_construct h
  | step flag number => exact runInvariant_step hinv h
  | reset =>
    cases h
    exact runInvariant_hostReset hinv
  | restart =>
    cases h
    exact runInvariant_hostRestart hinv
  | introspect =>
    cases h
    exact hinv

/-! ### The status, the cycles, the next pc and the scratch -/

/-- Settles O19: the fetch sets `Ok`, and class 15 alone changes it. -/
theorem statusByClass : Obligations.StatusByClass := by
  intro s t h
  rw [h, ← step_status h]
  exact ⟨rfl, rfl⟩

/-- Only the reserved classes cost nothing beyond the fetch (R115). -/
theorem one_le_classCost {opc : BitVec 4} (h10 : opc ≠ 10) (h11 : opc ≠ 11) : 1 ≤ classCost opc := by
  unfold classCost
  split
  case h_4 h => exact absurd (BitVec.eq_of_toNat_eq h) h10
  case h_5 h => exact absurd (BitVec.eq_of_toNat_eq h) h11
  all_goals omega

/-- Settles O20: the cost is the model's `classCost`, a function of the class alone. -/
theorem cyclesByClass : Obligations.CyclesByClass := by
  refine ⟨classCost, rfl, rfl, rfl, rfl, rfl, rfl, fun c h10 h11 => ⟨one_le_classCost h10 h11, classCost_le c⟩,
    fun s t h => ?_⟩
  rw [step_cycles h, Nat.add_assoc]

/-- Settles O21: the executed word leaves the table's pc, and the accounting keeps it. -/
theorem nextPcSelection : Obligations.NextPcSelection := by
  intro s t h
  obtain ⟨-, u, hu, rfl⟩ := step_executes h
  exact hu.pc

/-- Settles O23: the decoder's fields are the word's bits. -/
theorem scratchAfterStep : Obligations.ScratchAfterStep := fun _ _ h => step_scratch h

/-! ### The whole step (R103, R114) -/

/-- The state an instruction runs in, with the scratch by the word's bits (R104 to R107). -/
theorem afterFetch_eq_bits (s : State) :
    afterFetch s =
      { s with pc := s.pc + 1, lastAccess := some (s.pc.setWidth 24, wordAt s),
               scratch := ⟨wordAt s, opcBits (wordAt s), drBits (wordAt s), sr1Bits (wordAt s), sr2Bits (wordAt s)⟩,
               status := .ok } := by
  rw [afterFetch_eq, maskAddr_eq, wordAt_eq]
  rfl

/-- Settles O15: the meaning answers a next state, and the step is that state with the cycles added. -/
theorem stepRunsDecodedInstruction : Obligations.StepRunsDecodedInstruction := by
  intro s i hpc hd
  obtain ⟨u, hu⟩ := exec_next i (afterFetch s)
  have hstep : step s = .next (account (wordAt s) u) := by
    rw [wordAt_eq] at hd ⊢
    exact step_of_decode hpc hd hu
  rw [hstep, ← afterFetch_eq_bits, hu]
  rfl

/-- The bounds check fails a step beyond memory (R103). -/
theorem step_of_beyond_memory {s : State} (h : 2 ^ 24 ≤ s.pc.toNat) : step s = .fault .pcOutOfBounds :=
  if_pos (decide_eq_true h)

/-- Settles O16: beyond memory the check fails the step, and in memory every step completes. -/
theorem outOfBoundsExactlyBeyondMemory : Obligations.OutOfBoundsExactlyBeyondMemory := by
  refine fun s => ⟨fun hfault => ?_, step_of_beyond_memory⟩
  by_contra hpc
  obtain ⟨t, ht⟩ := stepInMemoryCompletes s (Nat.lt_of_not_le hpc)
  rw [hfault] at ht
  cases ht

end Sys2Proof.Machine
end

section
/-! The obligation on the inert classes (41_nop_reserved_halt.md). Such a class has no selector, so the class alone gives a
word's instruction (R78); its meaning returns the state it was given, and HALT's writes the status (R133). -/

namespace Sys2Proof.Machine

open Sys2Proof.Claims

/-! ### The meanings (R130 to R133) -/

@[simp] theorem exec_nop (s : State) : exec .nop s = .next s := rfl
@[simp] theorem exec_rsv10 (s : State) : exec .rsv10 s = .next s := rfl
@[simp] theorem exec_rsv11 (s : State) : exec .rsv11 s = .next s := rfl
@[simp] theorem exec_halt (s : State) : exec .halt s = .next { s with status := .halt } := rfl

/-! ### The words of each class (R78) -/

section
variable {w : Word}

theorem decode_of_opcBits_nop (h : opcBits w = 0) : decode w = .ok .nop := DecodesTo.decode_eq (i := .nop) h
theorem decode_of_opcBits_rsv10 (h : opcBits w = 10) : decode w = .ok .rsv10 := DecodesTo.decode_eq (i := .rsv10) h
theorem decode_of_opcBits_rsv11 (h : opcBits w = 11) : decode w = .ok .rsv11 := DecodesTo.decode_eq (i := .rsv11) h
theorem decode_of_opcBits_halt (h : opcBits w = 15) : decode w = .ok .halt := DecodesTo.decode_eq (i := .halt) h

end

/-- Settles O33: a word's class is all these instructions are read from, and each has its meaning's state. -/
theorem inertInstructions : Obligations.InertInstructions :=
  ⟨fun _ => decode_of_opcBits_nop, fun _ => decode_of_opcBits_rsv10, fun _ => decode_of_opcBits_rsv11,
    fun _ => decode_of_opcBits_halt, fun s => ⟨exec_nop s, exec_rsv10 s, exec_rsv11 s, exec_halt s⟩⟩

end Sys2Proof.Machine
end

section
/-! The obligations on class 1 (42_alu.md). Every meaning but ADD's ends in `aluFinish` alone, so one lemma on it gives
completion, `Z` and the frame (R140), and an obligation turns on the value the operation computes: by exact arithmetic
modulo 2^32, bit by bit, or by the library's rotations. ADD then writes `C` too (R141). -/

namespace Sys2Proof.Machine

open Sys2Proof.Claims

/-! ### The values (R142 to R157) -/

theorem aluAdd_toNat (a b : Word) : (aluAdd a b).toNat = (a.toNat + b.toNat) % 2 ^ 32 := BitVec.toNat_add a b

/-- The formula of R141 is the carry-out of the exact sum: the sum wrapped exactly when it lost 2^32, which is more than
either operand. -/
theorem addCarry_aluAdd_iff (a b : Word) : addCarry a b (aluAdd a b) = true ↔ 2 ^ 32 ≤ a.toNat + b.toNat := by
  rw [addCarry_iff, aluAdd_toNat]
  omega

theorem aluSub_eq_ofInt (a b : Word) : aluSub a b = BitVec.ofInt 32 (a.toNat - b.toNat : Int) := by
  rw [Int.sub_eq_add_neg, BitVec.ofInt_add, BitVec.ofInt_neg]
  simp [aluSub, BitVec.sub_eq_add_neg]

theorem aluMul_eq_ofNat (a b : Word) : aluMul a b = BitVec.ofNat 32 (a.toNat * b.toNat) := by
  simp [aluMul, BitVec.ofNat_mul]

theorem aluNeg_eq_ofInt (a : Word) : aluNeg a = BitVec.ofInt 32 (-(a.toNat : Int)) := by
  simp [aluNeg, BitVec.ofInt_neg]

theorem aluShl_eq_ofNat (a b : Word) : aluShl a b = BitVec.ofNat 32 (a.toNat * 2 ^ (b.toNat % 32)) := by
  apply BitVec.eq_of_toNat_eq
  simp [aluShl, shiftAmount_eq, Nat.shiftLeft_eq]

theorem aluShr_eq_ofNat (a b : Word) : aluShr a b = BitVec.ofNat 32 (a.toNat / 2 ^ (b.toNat % 32)) := by
  have hlt : a.toNat / 2 ^ (b.toNat % 32) < 2 ^ 32 := Nat.lt_of_le_of_lt (Nat.div_le_self _ _) a.isLt
  apply BitVec.eq_of_toNat_eq
  rw [BitVec.toNat_ofNat, Nat.mod_eq_of_lt hlt]
  simp [aluShr, shiftAmount_eq, Nat.shiftRight_eq_div_pow]

theorem getLsbD_aluNot (a : Word) {k : Nat} (hk : k < 32) : (aluNot a).getLsbD k = !a.getLsbD k := by
  rw [aluNot, BitVec.getLsbD_not, decide_eq_true hk, Bool.true_and]

theorem getLsbD_aluNand (a b : Word) {k : Nat} (hk : k < 32) :
    (aluNand a b).getLsbD k = !(a.getLsbD k && b.getLsbD k) :=
  (getLsbD_aluNot (a &&& b) hk).trans (congrArg _ BitVec.getLsbD_and)

theorem getLsbD_aluXnor (a b : Word) {k : Nat} (hk : k < 32) :
    (aluXnor a b).getLsbD k = (a.getLsbD k == b.getLsbD k) := by
  have hnot : (aluXnor a b).getLsbD k = !(a.getLsbD k ^^ b.getLsbD k) :=
    (getLsbD_aluNot (a ^^^ b) hk).trans (congrArg _ BitVec.getLsbD_xor)
  rw [hnot, ← Bool.bne_eq_xor, bne, Bool.not_not]

/-- ASR does not replicate the sign bit (R154). -/
theorem aluAsr_eq_aluShr (a b : Word) : aluAsr a b = aluShr a b := rfl

/-- ROL is the library's rotation, its amount taken modulo the width; at amount 0 the formula of GK4 is not used. -/
theorem aluRol_eq_rotateLeft (a b : Word) : aluRol a b = a.rotateLeft b.toNat := by
  rw [aluRol, shiftAmount_eq, BitVec.rotateLeft_def]
  split
  case isTrue h => simp [h, BitVec.ushiftRight_eq_zero]
  case isFalse => rfl

/-- ROR is the library's rotation, its amount taken modulo the width; at amount 0 the formula of GK5 is not used. -/
theorem aluRor_eq_rotateRight (a b : Word) : aluRor a b = a.rotateRight b.toNat := by
  rw [aluRor, shiftAmount_eq, BitVec.rotateRight_def]
  split
  case isTrue h => simp [h]
  case isFalse => rfl

/-- Bit `k` goes `b` places up, round from the top to bit 0 (R155). -/
theorem getLsbD_aluRol (a b : Word) {k : Nat} (hk : k < 32) :
    (aluRol a b).getLsbD ((k + b.toNat) % 32) = a.getLsbD k := by
  rw [aluRol_eq_rotateLeft, BitVec.getLsbD_rotateLeft]
  by_cases hwrap : (k + b.toNat) % 32 < b.toNat % 32
  · have hsource : 32 - b.toNat % 32 + (k + b.toNat) % 32 = k := by omega
    simp [hwrap, hsource]
  · have hsource : (k + b.toNat) % 32 - b.toNat % 32 = k := by omega
    have hlt : (k + b.toNat) % 32 < 32 := Nat.mod_lt _ (by decide)
    simp [hwrap, hsource, hlt]

/-- Bit `k` comes from `b` places up, round from the top to bit 0 (R156). -/
theorem getLsbD_aluRor (a b : Word) {k : Nat} (hk : k < 32) :
    (aluRor a b).getLsbD k = a.getLsbD ((k + b.toNat) % 32) := by
  rw [aluRor_eq_rotateRight, BitVec.getLsbD_rotateRight]
  by_cases hwrap : k < 32 - b.toNat % 32
  · have hsource : b.toNat % 32 + k = (k + b.toNat) % 32 := by omega
    simp [hwrap, hsource]
  · have hsource : k - (32 - b.toNat % 32) = (k + b.toNat) % 32 := by omega
    simp [hwrap, hsource, hk]

/-! ### What a meaning of class 1 leaves (R140) -/

/-- Writing `C` widens a frame by `C`. -/
theorem Frame.setCarry {k : Touched} {s t : State} (h : Frame k s t) (b : Bool) :
    Frame { k with carry := true } s (setCarry b t) := by
  obtain ⟨hreg, hpc, hsp, -, hrest⟩ := h
  exact ⟨hreg, hpc, hsp, nofun, hrest⟩

section
variable {i : Instr} {dr sr1 sr2 : Reg}

/-- A meaning that ends in `aluFinish` completes, with what is true of the result true of `x[dr]`. -/
theorem completes_of_aluFinish {s : State} {r : Word} {P : Word → Prop} (hexec : exec i s = .next (aluFinish dr r s))
    (hr : P r) :
    ∃ t, exec i s = .next t ∧ P (getReg t dr) ∧ (t.zero = true ↔ getReg t dr = 0) ∧
      Frame { dest := some dr, zero := true } s t := by
  refine ⟨_, hexec, ?_, ?_, aluFinish_frame dr r s⟩
  · rwa [getReg_aluFinish]
  · rw [getReg_aluFinish]
    exact aluFinish_zero dr r s

theorem aluCompletes_of_aluFinish {r r' : State → Word} (hexec : ∀ s, exec i s = .next (aluFinish dr (r s) s))
    (hr : ∀ s, r s = r' s) : AluCompletes i dr r' := by
  intro s
  obtain ⟨t, ht, hreg, hzero, hframe⟩ := completes_of_aluFinish (P := (· = r' s)) (hexec s) (hr s)
  exact ⟨t, ht, hreg, hreg ▸ hzero, hframe⟩

theorem bitwiseCompletes_of_aluFinish {op : Word → Word → Word} {f : Bool → Bool → Bool}
    (hexec : ∀ s, exec i s = .next (aluFinish dr (op (getReg s sr1) (getReg s sr2)) s))
    (hop : ∀ a b k, k < 32 → (op a b).getLsbD k = f (a.getLsbD k) (b.getLsbD k)) : BitwiseCompletes i dr sr1 sr2 f :=
  fun s =>
  completes_of_aluFinish
    (P := fun r => ∀ k, k < 32 → r.getLsbD k = f ((getReg s sr1).getLsbD k) ((getReg s sr2).getLsbD k))
    (hexec s) (hop _ _)

end

/-! ### The meanings -/

/-- What ADD leaves: the sum and `Z` as all of class 1, and `C` (R142). -/
theorem exec_add (dr sr1 sr2 : Reg) (s : State) :
    exec (.add dr sr1 sr2) s =
      .next (setCarry (addCarry (getReg s sr1) (getReg s sr2) (aluAdd (getReg s sr1) (getReg s sr2)))
        (aluFinish dr (aluAdd (getReg s sr1) (getReg s sr2)) s)) := rfl

/-- Settles O34: `C` is written over a state that class 1's rule describes. -/
theorem addResult : Obligations.AddResult := by
  refine ⟨fun w hopc hfn => DecodesTo.decode_eq (i := .add _ _ _) ⟨hopc, hfn, rfl, rfl, rfl⟩, fun s dr sr1 sr2 =>
    ⟨_, exec_add dr sr1 sr2 s, ?_, ?_, ?_, (aluFinish_frame dr _ s).setCarry _⟩⟩
  · rw [getReg_setCarry, getReg_aluFinish, aluAdd_toNat]
  · rw [getReg_setCarry, getReg_aluFinish, setCarry_zero, aluFinish_zero, BitVec.toNat_eq]
    rfl
  · rw [getReg_setCarry, getReg_aluFinish, setCarry_carry, addCarry_iff]

/-- Settles O35: the carry-out is what R141's formula computes from the sum. -/
theorem addCarryIsCarryOut : Obligations.AddCarryIsCarryOut := fun s dr sr1 sr2 =>
  ⟨_, exec_add dr sr1 sr2 s, addCarry_aluAdd_iff _ _⟩

/-- Settles O36: each operation is the exact one modulo 2^32. -/
theorem subMulNegResults : Obligations.SubMulNegResults :=
  ⟨fun _ hopc hfn => DecodesTo.decode_eq (i := .sub _ _ _) ⟨hopc, hfn, rfl, rfl, rfl⟩,
    fun _ hopc hfn => DecodesTo.decode_eq (i := .mul _ _ _) ⟨hopc, hfn, rfl, rfl, rfl⟩,
    fun _ hopc hfn => DecodesTo.decode_eq (i := .neg _ _) ⟨hopc, hfn, rfl, rfl⟩,
    fun _ _ _ =>
      ⟨aluCompletes_of_aluFinish (fun _ => rfl) fun _ => aluSub_eq_ofInt _ _,
        aluCompletes_of_aluFinish (fun _ => rfl) fun _ => aluMul_eq_ofNat _ _,
        aluCompletes_of_aluFinish (fun _ => rfl) fun _ => aluNeg_eq_ofInt _⟩⟩

/-- Settles O37: the library's bitwise operations, read bit by bit. -/
theorem logicResults : Obligations.LogicResults := by
  refine ⟨fun _ hopc hfn => DecodesTo.decode_eq (i := .and _ _ _) ⟨hopc, hfn, rfl, rfl, rfl⟩,
    fun _ hopc hfn => DecodesTo.decode_eq (i := .or _ _ _) ⟨hopc, hfn, rfl, rfl, rfl⟩,
    fun _ hopc hfn => DecodesTo.decode_eq (i := .not _ _) ⟨hopc, hfn, rfl, rfl⟩,
    fun _ hopc hfn => DecodesTo.decode_eq (i := .xor _ _ _) ⟨hopc, hfn, rfl, rfl, rfl⟩, fun dr sr1 sr2 i f hi => ?_⟩
  simp only [List.mem_cons, List.not_mem_nil, or_false, Prod.mk.injEq] at hi
  obtain ⟨rfl, rfl⟩ | ⟨rfl, rfl⟩ | ⟨rfl, rfl⟩ | ⟨rfl, rfl⟩ := hi
  · exact bitwiseCompletes_of_aluFinish (op := aluAnd) (fun _ => rfl) fun _ _ _ _ => BitVec.getLsbD_and
  · exact bitwiseCompletes_of_aluFinish (op := aluOr) (fun _ => rfl) fun _ _ _ _ => BitVec.getLsbD_or
  · exact bitwiseCompletes_of_aluFinish (op := fun a _ => aluNot a) (fun _ => rfl) fun _ _ _ => getLsbD_aluNot _
  · exact bitwiseCompletes_of_aluFinish (op := aluXor) (fun _ => rfl) fun _ _ _ _ => BitVec.getLsbD_xor

/-- Settles O38: the complements of AND and XOR, read bit by bit. -/
theorem nandXnorResults : Obligations.NandXnorResults :=
  ⟨fun _ hopc hfn => DecodesTo.decode_eq (i := .nand _ _ _) ⟨hopc, hfn, rfl, rfl, rfl⟩,
    fun _ hopc hfn => DecodesTo.decode_eq (i := .xnor _ _ _) ⟨hopc, hfn, rfl, rfl, rfl⟩,
    fun _ _ _ =>
      ⟨bitwiseCompletes_of_aluFinish (op := aluNand) (fun _ => rfl) fun _ _ _ => getLsbD_aluNand _ _,
        bitwiseCompletes_of_aluFinish (op := aluXnor) (fun _ => rfl) fun _ _ _ => getLsbD_aluXnor _ _⟩⟩

/-- Settles O39: shifting is multiplying and dividing by a power of two, and ASR shifts as SHR. -/
theorem shiftResults : Obligations.ShiftResults :=
  ⟨fun _ hopc hfn => DecodesTo.decode_eq (i := .shl _ _ _) ⟨hopc, hfn, rfl, rfl, rfl⟩,
    fun _ hopc hfn => DecodesTo.decode_eq (i := .shr _ _ _) ⟨hopc, hfn, rfl, rfl, rfl⟩,
    fun _ hopc hfn => DecodesTo.decode_eq (i := .asr _ _ _) ⟨hopc, hfn, rfl, rfl, rfl⟩,
    fun _ _ _ =>
      ⟨aluCompletes_of_aluFinish (fun _ => rfl) fun _ => aluShl_eq_ofNat _ _,
        aluCompletes_of_aluFinish (fun _ => rfl) fun _ => aluShr_eq_ofNat _ _,
        aluCompletes_of_aluFinish (fun _ => rfl) fun _ => (aluAsr_eq_aluShr _ _).trans (aluShr_eq_ofNat _ _)⟩⟩

/-- Settles O40: each rotation moves every bit its amount round. -/
theorem rotateResults : Obligations.RotateResults :=
  ⟨fun _ hopc hfn => DecodesTo.decode_eq (i := .rol _ _ _) ⟨hopc, hfn, rfl, rfl, rfl⟩,
    fun _ hopc hfn => DecodesTo.decode_eq (i := .ror _ _ _) ⟨hopc, hfn, rfl, rfl, rfl⟩,
    fun s _ sr1 sr2 =>
      ⟨completes_of_aluFinish
          (P := fun r => ∀ k, k < 32 → r.getLsbD ((k + (getReg s sr2).toNat) % 32) = (getReg s sr1).getLsbD k) rfl
          fun _ => getLsbD_aluRol _ _,
        completes_of_aluFinish
          (P := fun r => ∀ k, k < 32 → r.getLsbD k = (getReg s sr1).getLsbD ((k + (getReg s sr2).toNat) % 32)) rfl
          fun _ => getLsbD_aluRor _ _⟩⟩

/-- Settles O41: the result is 0, so `Z` is true. -/
theorem zeroResult : Obligations.ZeroResult :=
  ⟨fun _ hopc hfn => DecodesTo.decode_eq (i := .zero _) ⟨hopc, hfn, rfl⟩, fun s dr =>
    ⟨_, rfl, getReg_aluFinish dr aluZero s, (aluFinish_zero dr aluZero s).2 rfl, aluFinish_frame dr aluZero s⟩⟩

end Sys2Proof.Machine
end

section
/-! The obligation on class 2 (43_compare.md): `compareRegs` writes `CMP` alone, and `rel*_iff` say what each test is. -/

namespace Sys2Proof.Machine

open Sys2Proof.Claims

/-- A class-2 instruction changes `CMP` (R170). -/
theorem compareRegs_frame (rel : Word → Word → Bool) (sr1 sr2 : Reg) (s : State) :
    Frame { comparison := true } s (compareRegs rel sr1 sr2 s) :=
  ⟨fun _ _ => rfl, fun _ => rfl, fun _ => rfl, fun _ => rfl, fun _ => rfl, nofun, fun _ => rfl, fun _ => rfl,
    fun _ _ => rfl, fun _ => rfl, fun _ => rfl, rfl, rfl, rfl, rfl⟩

/-- A meaning that ends in `compareRegs` completes, with what the test says of its operands in `CMP`. -/
theorem completes_of_compareRegs {i : Instr} {rel : Word → Word → Bool} {sr1 sr2 : Reg} {s : State} {p : Prop}
    (hexec : exec i s = .next (compareRegs rel sr1 sr2 s)) (hrel : rel (getReg s sr1) (getReg s sr2) = true ↔ p) :
    ∃ t, exec i s = .next t ∧ (t.comparison = true ↔ p) ∧ Frame { comparison := true } s t :=
  ⟨_, hexec, hrel, compareRegs_frame rel sr1 sr2 s⟩

/-- Settles O42: each meaning is `compareRegs` of its own unsigned test. -/
theorem compareResults : Obligations.CompareResults := by
  refine ⟨fun _ hopc hfn => DecodesTo.decode_eq (i := .cmpgt _ _) ⟨hopc, hfn, rfl, rfl⟩,
    fun _ hopc hfn => DecodesTo.decode_eq (i := .cmpeq _ _) ⟨hopc, hfn, rfl, rfl⟩,
    fun _ hopc hfn => DecodesTo.decode_eq (i := .cmplt _ _) ⟨hopc, hfn, rfl, rfl⟩,
    fun _ hopc hfn => DecodesTo.decode_eq (i := .cmpge _ _) ⟨hopc, hfn, rfl, rfl⟩,
    fun _ hopc hfn => DecodesTo.decode_eq (i := .cmple _ _) ⟨hopc, hfn, rfl, rfl⟩,
    fun _ hopc hfn => DecodesTo.decode_eq (i := .cmpnv _ _ _) ⟨hopc, hfn, rfl, rfl, rfl⟩,
    fun s fn sr1 sr2 i p hi => ?_⟩
  simp only [List.mem_cons, List.not_mem_nil, or_false, Prod.mk.injEq] at hi
  obtain ⟨rfl, rfl⟩ | ⟨rfl, rfl⟩ | ⟨rfl, rfl⟩ | ⟨rfl, rfl⟩ | ⟨rfl, rfl⟩ | ⟨rfl, rfl⟩ := hi
  · exact completes_of_compareRegs rfl (relGt_iff _ _)
  · exact completes_of_compareRegs rfl (relEq_iff _ _)
  · exact completes_of_compareRegs rfl (relLt_iff _ _)
  · exact completes_of_compareRegs rfl (relGe_iff _ _)
  · exact completes_of_compareRegs rfl (relLe_iff _ _)
  · exact completes_of_compareRegs rfl (relNever_iff _ _)

end Sys2Proof.Machine
end

section
/-! The obligations on class 3 (44_jump.md). Every meaning is `jumpIf` of its own condition, so one lemma on `jumpIf` gives
completion, `pc` and the frame (R180); the two target forms differ in the word's `jm` and in how the target is computed. -/

namespace Sys2Proof.Machine

open Sys2Proof.Claims

/-! ### The target forms (R181) -/

theorem jmOf_of_jmBit_false {w : Word} (h : jmBit w = false) : jmOf w = 0 :=
  (one_bit_cases (jmOf w)).resolve_right fun hone => by simp [jmBit_eq, hone] at h

theorem jmOf_of_jmBit_true {w : Word} (h : jmBit w = true) : jmOf w = 1 :=
  (one_bit_cases (jmOf w)).resolve_left fun hzero => by simp [jmBit_eq, hzero] at h

/-- A register target drops bits 31 to 24 of its register. -/
theorem registerTarget_toNat (sr2 : Reg) (s : State) : (registerTarget sr2 s).toNat = (getReg s sr2).toNat % 2 ^ 24 := by
  have hmask : BitVec.toNat Config.addrMask = 2 ^ 24 - 1 := by decide
  rw [← Nat.and_two_pow_sub_one_eq_mod, ← hmask]
  exact BitVec.toNat_and _ _

/-! ### What a meaning of class 3 leaves (R180) -/

/-- A class-3 instruction changes `pc`. -/
theorem setPc_frame (v : Pc) (s : State) : Frame { pc := true } s (setPc v s) :=
  ⟨fun _ _ => rfl, nofun, fun _ => rfl, fun _ => rfl, fun _ => rfl, fun _ => rfl, fun _ => rfl, fun _ => rfl,
    fun _ _ => rfl, fun _ => rfl, fun _ => rfl, rfl, rfl, rfl, rfl⟩

theorem jumpIf_frame (c : Bool) (target : Pc) (s : State) : Frame { pc := true } s (jumpIf c target s) := by
  rw [jumpIf_eq]
  exact setPc_frame _ s

section
variable {i : Instr} {jc : BitVec 3}

/-- A meaning that jumps to `imm24` on the condition of slot `jc`, from the words of that slot with `jm` = 0. -/
theorem immediateJump_of_jumpIf {imm24 : Imm}
    (hword : ∀ w, opcOf w = 3 ∧ jcOf w = jc ∧ jmOf w = 0 ∧ imm24 = immOf w → DecodesTo w i)
    (hexec : ∀ s, exec i s = .next (jumpIf (condOf jc s) (immediateTarget imm24) s)) :
    (∀ w, opcBits w = 3 → jmBit w = false → jcBits w = jc → immBits w = imm24 → decode w = .ok i) ∧
    ∀ s : State, ∃ t, exec i s = .next t ∧ t.pc = (if condOf jc s then imm24.setWidth 32 else s.pc) ∧
      Frame { pc := true } s t :=
  ⟨fun w hopc hjm hjc himm => (hword w ⟨hopc, hjc, jmOf_of_jmBit_false hjm, himm.symm⟩).decode_eq,
    fun s => ⟨_, hexec s, jumpIf_pc _ _ s, jumpIf_frame _ _ s⟩⟩

/-- A meaning that jumps to `x[sr2]`, masked, on the condition of slot `jc`, from the words of that slot with `jm` = 1. -/
theorem registerJump_of_jumpIf {sr2 : Reg}
    (hword : ∀ w, opcOf w = 3 ∧ jcOf w = jc ∧ jmOf w = 1 ∧ sr2 = sr2Of w → DecodesTo w i)
    (hexec : ∀ s, exec i s = .next (jumpIf (condOf jc s) (registerTarget sr2 s) s)) :
    (∀ w, opcBits w = 3 → jmBit w = true → jcBits w = jc → sr2Bits w = sr2 → decode w = .ok i) ∧
    ∀ s : State, ∃ t, exec i s = .next t ∧
      t.pc.toNat = (if condOf jc s then (getReg s sr2).toNat % 2 ^ 24 else s.pc.toNat) ∧ Frame { pc := true } s t := by
  refine ⟨fun w hopc hjm hjc hsr2 => (hword w ⟨hopc, hjc, jmOf_of_jmBit_true hjm, hsr2.symm⟩).decode_eq,
    fun s => ⟨_, hexec s, ?_, jumpIf_frame _ _ s⟩⟩
  rw [jumpIf_pc, apply_ite BitVec.toNat, registerTarget_toNat]

end

/-- Settles O43: each slot's meaning is `jumpIf` of the slot's condition (R81) to the immediate. -/
theorem immediateJumps : Obligations.ImmediateJumps := by
  intro imm24 jc i hi
  simp only [List.mem_cons, List.not_mem_nil, or_false, Prod.mk.injEq] at hi
  obtain ⟨rfl, rfl⟩ | ⟨rfl, rfl⟩ | ⟨rfl, rfl⟩ | ⟨rfl, rfl⟩ | ⟨rfl, rfl⟩ | ⟨rfl, rfl⟩ | ⟨rfl, rfl⟩ | ⟨rfl, rfl⟩ := hi
  all_goals exact immediateJump_of_jumpIf (fun _ => id) fun _ => rfl

/-- Settles O44: each slot's meaning is `jumpIf` of the slot's condition (R81) to the masked register. -/
theorem registerJumps : Obligations.RegisterJumps := by
  intro sr2 jc i hi
  simp only [List.mem_cons, List.not_mem_nil, or_false, Prod.mk.injEq] at hi
  obtain ⟨rfl, rfl⟩ | ⟨rfl, rfl⟩ | ⟨rfl, rfl⟩ | ⟨rfl, rfl⟩ | ⟨rfl, rfl⟩ | ⟨rfl, rfl⟩ | ⟨rfl, rfl⟩ | ⟨rfl, rfl⟩ := hi
  all_goals exact registerJump_of_jumpIf (fun _ => id) fun _ => rfl

end Sys2Proof.Machine
end

section
/-! The obligations on classes 4 to 9 (45_load_store_move.md). Both loads are `loadWord`, both stores are `memWrite`, and
LOAD_IMM and MOV are one `setReg`; the two addressing modes differ in the masked address alone. -/

namespace Sys2Proof.Machine

open Sys2Proof.Claims

/-! ### What a meaning of classes 4 to 9 leaves -/

theorem Frame.refl (s : State) : Frame {} s s :=
  ⟨fun _ _ => rfl, fun _ => rfl, fun _ => rfl, fun _ => rfl, fun _ => rfl, fun _ => rfl, fun _ => rfl, fun _ => rfl,
    fun _ _ => rfl, fun _ => rfl, fun _ => rfl, rfl, rfl, rfl, rfl⟩

/-- Writing a register widens a frame that has no destination by that register. -/
theorem Frame.setReg {k : Touched} {s t : State} (h : Frame k s t) (hdest : k.dest = none) (dr : Reg) (v : Word) :
    Frame { k with dest := some dr } s (setReg dr v t) := by
  obtain ⟨hreg, hrest⟩ := h
  refine ⟨fun r hr => ?_, hrest⟩
  have hne : dr ≠ r := fun heq => hr (congrArg some heq)
  have hkept : k.dest ≠ some r := by simp [hdest]
  rw [getReg_setReg, if_neg hne, hreg r hkept]

theorem setReg_frame (dr : Reg) (v : Word) (s : State) : Frame { dest := some dr } s (setReg dr v s) :=
  (Frame.refl s).setReg rfl dr v

/-- A load changes its destination and the last access (R210, R211). -/
theorem loadWord_frame (dr : Reg) (a : Word) (s : State) :
    Frame { dest := some dr, lastAccess := true } s (loadWord dr a s) :=
  (memRead_frame a s).setReg rfl dr _

theorem getReg_loadWord (dr : Reg) (a : Word) (s : State) : getReg (loadWord dr a s) dr = peek s (maskAddr a) :=
  getReg_setReg_same dr _ _

theorem loadWord_lastAccess (dr : Reg) (a : Word) (s : State) :
    (loadWord dr a s).lastAccess = some (maskAddr a, peek s (maskAddr a)) := rfl

section
variable {i : Instr} {s : State} {a : Word} {m : Addr}

/-- A meaning that is a load from `m` completes with the word that was there. -/
theorem completes_of_loadWord {dr : Reg} (hexec : exec i s = .next (loadWord dr a s)) (hmask : maskAddr a = m) :
    ∃ t, exec i s = .next t ∧ getReg t dr = peek s m ∧ t.lastAccess = some (m, peek s m) ∧
      Frame { dest := some dr, lastAccess := true } s t := by
  subst hmask
  exact ⟨_, hexec, getReg_loadWord dr a s, loadWord_lastAccess dr a s, loadWord_frame dr a s⟩

/-- A meaning that is a store at `m` completes with the stored word there. -/
theorem completes_of_memWrite {v : Word} (hexec : exec i s = .next (memWrite a v s)) (hmask : maskAddr a = m) :
    ∃ t, exec i s = .next t ∧ peek t m = v ∧ t.lastAccess = some (m, v) ∧
      Frame { stored := [m], lastAccess := true } s t := by
  subst hmask
  refine ⟨_, hexec, ?_, memWrite_lastAccess a v s, memWrite_frame a v s⟩
  rw [peek_memWrite, if_pos rfl]

end

/-- The immediate is zero-extended (R74). -/
theorem immediateValue_toNat (imm24 : Imm) : (immediateValue imm24).toNat = imm24.toNat :=
  BitVec.toNat_setWidth_of_le (by decide)

/-! ### The meanings -/

/-- Settles O45: both are `loadWord`, whose address is computed from the state before the write. -/
theorem loadResults : Obligations.LoadResults :=
  ⟨fun _ hopc => DecodesTo.decode_eq (i := .loadAbs _ _) ⟨hopc, rfl, rfl⟩,
    fun _ hopc => DecodesTo.decode_eq (i := .loadInd _ _) ⟨hopc, rfl, rfl⟩,
    fun _ _ _ imm24 => ⟨completes_of_loadWord rfl (maskAddr_absoluteAddr imm24), completes_of_loadWord rfl rfl⟩⟩

/-- Settles O47: both are `memWrite` of the source register. -/
theorem storeResults : Obligations.StoreResults :=
  ⟨fun _ hopc => DecodesTo.decode_eq (i := .storeAbs _ _) ⟨hopc, rfl, rfl⟩,
    fun _ hopc => DecodesTo.decode_eq (i := .storeInd _ _) ⟨hopc, rfl, rfl⟩,
    fun _ _ _ imm24 => ⟨completes_of_memWrite rfl (maskAddr_absoluteAddr imm24), completes_of_memWrite rfl rfl⟩⟩

/-- Settles O46: both are one `setReg`, which writes no flag. -/
theorem loadImmediateAndMove : Obligations.LoadImmediateAndMove := by
  refine ⟨fun _ hopc => DecodesTo.decode_eq (i := .loadImm _ _) ⟨hopc, rfl, rfl⟩,
    fun _ hopc => DecodesTo.decode_eq (i := .mov _ _) ⟨hopc, rfl, rfl⟩,
    fun s dr sr1 imm24 => ⟨⟨_, rfl, ?_, setReg_frame dr _ s⟩, ⟨_, rfl, getReg_setReg_same dr _ s, setReg_frame dr _ s⟩⟩⟩
  rw [getReg_setReg_same, immediateValue_toNat]

end Sys2Proof.Machine
end

section
/-! The obligations on class 12 (46_stack.md). PUSH is `pushWord`, POP is a register written from `popWord`, PEEK is
`loadWord` at `sp` and SZERO one `setReg`: the frame of each is the access's, widened by `sp` and by the destination. -/

namespace Sys2Proof.Machine

open Sys2Proof.Claims

/-! ### What the stack operations leave -/

/-- Moving `sp` widens a frame by `sp`. -/
theorem Frame.setSp {k : Touched} {s t : State} (h : Frame k s t) (v : Word) :
    Frame { k with sp := true } s (setSp v t) := by
  obtain ⟨hreg, hpc, -, hrest⟩ := h
  exact ⟨hreg, hpc, nofun, hrest⟩

/-- A push changes `sp`, the word at the new `sp` and the last access (R220): the store and the move of `sp` commute. -/
theorem pushWord_frame (v : Word) (s : State) :
    Frame { sp := true, stored := [maskAddr (s.sp - 1)], lastAccess := true } s (pushWord v s) :=
  (memWrite_frame (s.sp - 1) v s).setSp (s.sp - 1)

/-- A pop changes `sp` and the last access (R221). -/
theorem popWord_frame (s : State) : Frame { sp := true, lastAccess := true } s (popWord s).2 :=
  (memRead_frame s.sp s).setSp (s.sp + 1)

/-- The pushed word is at the new `sp`. -/
theorem peek_pushWord_same (v : Word) (s : State) : peek (pushWord v s) (maskAddr (s.sp - 1)) = v := by
  rw [peek_pushWord, if_pos rfl]

/-- A push keeps every other word. -/
theorem peek_pushWord_of_ne {s : State} {a : Addr} (h : a ≠ maskAddr (s.sp - 1)) (v : Word) :
    peek (pushWord v s) a = peek s a := by
  rw [peek_pushWord, if_neg h.symm]

/-! ### The meanings -/

/-- Settles O48: PUSH is one `pushWord` of the source register. -/
theorem pushResult : Obligations.PushResult :=
  ⟨fun _ ⟨hopc, hsop⟩ => DecodesTo.decode_eq (i := .push _) ⟨hopc, hsop, rfl⟩,
    fun s sr1 => ⟨_, rfl, rfl, peek_pushWord_same _ s, rfl, pushWord_frame (getReg s sr1) s⟩⟩

/-- Settles O49: POP writes the destination after `popWord`, PEEK is a load at `sp`, SZERO a write of 0. -/
theorem popPeekSzeroResults : Obligations.PopPeekSzeroResults := by
  refine ⟨fun _ ⟨hopc, hsop⟩ => DecodesTo.decode_eq (i := .pop _) ⟨hopc, hsop, rfl⟩,
    fun _ ⟨hopc, hsop⟩ => DecodesTo.decode_eq (i := .peek _) ⟨hopc, hsop, rfl⟩,
    fun _ ⟨hopc, hsop⟩ => DecodesTo.decode_eq (i := .szero _) ⟨hopc, hsop, rfl⟩, fun s dr => ⟨?pop, ?peek, ?szero⟩⟩
  case pop => exact ⟨_, rfl, getReg_setReg_same dr _ _, rfl, rfl, (popWord_frame s).setReg rfl dr _⟩
  case peek => exact completes_of_loadWord rfl rfl
  case szero => exact ⟨_, rfl, getReg_setReg_same dr 0 s, setReg_frame dr 0 s⟩

/-- Settles O50: the word popped is the word pushed, one below the old `sp`, and the pop stores nothing. -/
theorem pushThenPop : Obligations.PushThenPop := by
  intro s j k
  refine ⟨_, _, rfl, rfl, ?value, BitVec.sub_add_cancel s.sp 1, fun r hne => ?registers, peek_pushWord_same _ s,
    fun a hne => peek_pushWord_of_ne hne _⟩
  case value => rw [getReg_setReg_same, popWord_pushWord_value]
  case registers => rw [getReg_setReg, if_neg hne.symm, getReg_popWord, getReg_pushWord]

end Sys2Proof.Machine
end

section
/-! The obligations on class 13 (47_call_return.md). CALL is two pushes with `pc` set between them and RET two pops before
`pc` and the flags are written: the frame of each is built up operation by operation. The pair (R232) follows from the two
rules, the accounting and the fetch between them changing no register, flag or word. -/

namespace Sys2Proof.Machine

open Sys2Proof.Claims

/-! ### The words of class 13 (R83) -/

theorem sOf_of_sBit_false {w : Word} (h : sBit w = false) : sOf w = 0 :=
  (one_bit_cases (sOf w)).resolve_right fun hone => by simp [sBit_eq, hone] at h

theorem sOf_of_sBit_true {w : Word} (h : sBit w = true) : sOf w = 1 :=
  (one_bit_cases (sOf w)).resolve_left fun hzero => by simp [sBit_eq, hzero] at h

/-! ### What the operations of a call and a return leave -/

section
variable {k : Touched} {s t : State}

/-- A frame keeps every word outside its stored addresses. -/
theorem Frame.peek_eq (h : Frame k s t) {a : Addr} (ha : a ∉ k.stored) : peek t a = peek s a := by
  obtain ⟨-, -, -, -, -, -, -, -, hmem, -⟩ := h
  exact hmem a ha

/-- Writing `pc` widens a frame by `pc`. -/
theorem Frame.setPc (h : Frame k s t) (v : Pc) : Frame { k with pc := true } s (setPc v t) := by
  obtain ⟨hreg, -, hrest⟩ := h
  exact ⟨hreg, nofun, hrest⟩

/-- A push widens a frame by `sp`, the word at the new `sp` and the last access. -/
theorem Frame.pushWord (h : Frame k s t) (v : Word) :
    Frame { k with sp := true, stored := k.stored ++ [maskAddr (t.sp - 1)], lastAccess := true } s (pushWord v t) := by
  obtain ⟨hreg, hpc, -, hcarry, hzero, hcomparison, hpriv, hreti, hmem, -, hrest⟩ := h
  refine ⟨hreg, hpc, nofun, hcarry, hzero, hcomparison, hpriv, hreti, fun a ha => ?_, nofun, hrest⟩
  obtain ⟨hkept, hne⟩ := not_or.1 (mt List.mem_append.2 ha)
  exact (peek_pushWord_of_ne (fun heq => hne (List.mem_singleton.2 heq)) v).trans (hmem a hkept)

/-- A pop widens a frame by `sp` and the last access. -/
theorem Frame.popWord (h : Frame k s t) : Frame { k with sp := true, lastAccess := true } s (popWord t).2 := by
  obtain ⟨hreg, hpc, -, hcarry, hzero, hcomparison, hpriv, hreti, hmem, -, hrest⟩ := h
  exact ⟨hreg, hpc, nofun, hcarry, hzero, hcomparison, hpriv, hreti, hmem, nofun, hrest⟩

/-- Unpacking a flags word widens a frame by the three flags. -/
theorem Frame.unpackFlags (h : Frame k s t) (w : Word) :
    Frame { k with carry := true, zero := true, comparison := true } s (unpackFlags w t) := by
  obtain ⟨hreg, hpc, hsp, -, -, -, hrest⟩ := h
  exact ⟨hreg, hpc, hsp, nofun, nofun, nofun, hrest⟩

end

/-- The return address is masked (R230). -/
theorem returnAddress_toNat (s : State) : (returnAddress s).toNat = s.pc.toNat % 2 ^ 24 :=
  and_addrMask_toNat s.pc

/-! ### The meanings -/

theorem exec_call (imm24 : Imm) (s : State) :
    exec (.call imm24) s =
      .next (pushWord (flagsWord s) (setPc (immediateTarget imm24) (pushWord (returnAddress s) s))) := rfl

theorem exec_ret (s : State) :
    exec .ret s =
      .next (unpackFlags (popWord s).1 (setPc (popWord (popWord s).2).1 (popWord (popWord s).2).2)) := rfl

/-- Settles O51: the second push lies below the return address and does not overwrite it. -/
theorem callResult : Obligations.CallResult := by
  refine ⟨fun _ ⟨hopc, hs⟩ => DecodesTo.decode_eq (i := .call _) ⟨hopc, sOf_of_sBit_false hs, rfl⟩, fun s imm24 => ?_⟩
  rw [← sub_one_sub_one, ← flagsWord_eq_packedFlags]
  refine ⟨_, exec_call imm24 s, rfl, rfl, ?returnAddress, peek_pushWord_same _ _, rfl,
    ((pushWord_frame _ s).setPc _).pushWord _⟩
  case returnAddress =>
    have hne : maskAddr (s.sp - 1) ≠
        maskAddr ((setPc (immediateTarget imm24) (pushWord (returnAddress s) s)).sp - 1) :=
      (maskAddr_sub_two_ne s.sp).symm
    rw [peek_pushWord_of_ne hne, peek_setPc, peek_pushWord_same, returnAddress_toNat]

/-- Settles O52: the flags word is popped first and the return address above it second (C1). -/
theorem retResult : Obligations.RetResult := by
  refine ⟨fun _ ⟨hopc, hs⟩ => DecodesTo.decode_eq (i := .ret) ⟨hopc, sOf_of_sBit_true hs⟩, fun s =>
    ⟨_, exec_ret s, rfl, ?sp, ⟨rfl, rfl, rfl⟩, rfl, ((popWord_frame s).popWord.setPc _).unpackFlags _⟩⟩
  case sp =>
    show s.sp + 1 + 1 = s.sp + 2
    bv_omega

/-! ### A call and its return (R232) -/

/-- Flags taken from the word that packs the flags of `s` are the flags of `s` (R12). -/
theorem flags_eq_of_packedFlags {s t : State} (h : FlagsFrom (packedFlags s) t) :
    t.carry = s.carry ∧ t.zero = s.zero ∧ t.comparison = s.comparison := by
  rw [← flagsWord_eq_packedFlags] at h
  obtain ⟨hcarry, hzero, hcomparison⟩ := h
  obtain ⟨hcarry', hzero', hcomparison'⟩ := flagsWord_bits s
  exact ⟨hcarry.trans hcarry', hzero.trans hzero', hcomparison.trans hcomparison'⟩

section
variable {s t : State}

/-- A step leaves what the decoded instruction's rule says of the fetched state, with the cycles counted. -/
theorem step_eq_account {i : Instr} {v : State} (h : step s = .next t) (hd : decode (wordAt s) = .ok i)
    (he : exec i (afterFetch s) = .next v) : t = account (wordAt s) v := by
  obtain ⟨hpc, -⟩ := step_executes h
  rw [wordAt_eq] at hd ⊢
  exact Host.Outcome.next.inj (h.symm.trans (step_of_decode hpc hd he))

/-- Class 13 writes no general register and no trap register. -/
theorem step_keeps_of_class13 {b : Bool} (h : step s = .next t) (hw : IsSelect (wordAt s) 13 b) :
    (∀ r, getReg t r = getReg s r) ∧ t.priv = s.priv ∧ t.reti = s.reti := by
  obtain ⟨hopc, -⟩ := hw
  have hdest : declaredDest (wordAt s) = none := by simp [declaredDest, hopc]
  have hother : opcBits (wordAt s) ≠ 14 := by simp [hopc]
  obtain ⟨-, -, hkeeps⟩ := trapRegisterWriters.1 s t h
  exact ⟨fun r => stepRegisterFrame s t r h (by simp [hdest]), hkeeps hother⟩

/-- The step of a CALL: the fetch advanced `pc` and changed no flag. -/
theorem step_call (h : step s = .next t) (hw : IsSelect (wordAt s) 13 false) :
    t.sp = s.sp - 2 ∧ (peek t (maskAddr (s.sp - 1))).toNat = (s.pc.toNat + 1) % 2 ^ 24 ∧
      peek t (maskAddr (s.sp - 2)) = packedFlags s ∧
      ∀ a, a ≠ maskAddr (s.sp - 1) → a ≠ maskAddr (s.sp - 2) → peek t a = peek s a := by
  obtain ⟨v, hv, -, hsp, hreturn, hflags, -, hframe⟩ :=
    callResult.2 (afterFetch s) (immBits (wordAt s))
  obtain rfl := step_eq_account h (callResult.1 _ hw) hv
  have hpc : (s.pc + 1).toNat % 2 ^ 24 = (s.pc.toNat + 1) % 2 ^ 24 := by bv_omega
  exact ⟨hsp, hreturn.trans hpc, hflags, fun _ h1 h2 => hframe.peek_eq (by simpa using ⟨h1, h2⟩)⟩

/-- The step of a RET. -/
theorem step_ret (h : step s = .next t) (hw : IsSelect (wordAt s) 13 true) :
    t.pc = peek s (maskAddr (s.sp + 1)) ∧ t.sp = s.sp + 2 ∧ FlagsFrom (peek s (maskAddr s.sp)) t ∧
      ∀ a, peek t a = peek s a := by
  obtain ⟨v, hv, hpc, hsp, hflags, -, hframe⟩ := retResult.2 (afterFetch s)
  obtain rfl := step_eq_account h (retResult.1 _ hw) hv
  exact ⟨hpc, hsp, hflags, fun _ => hframe.peek_eq List.not_mem_nil⟩

end

/-- Settles O53: RET finds the flags word at the `sp` CALL left and the return address above it. -/
theorem callThenRet : Obligations.CallThenRet := by
  intro s t u hcall hcallWord hretWord hret
  obtain ⟨htop, hreturn, hsaved, hmem⟩ := step_call hcall hcallWord
  obtain ⟨hpc, hsp, hflags, hmem'⟩ := step_ret hret hretWord
  obtain ⟨hreg, hpriv, hreti⟩ := step_keeps_of_class13 hcall hcallWord
  obtain ⟨hreg', hpriv', hreti'⟩ := step_keeps_of_class13 hret hretWord
  have hslot : s.sp - 2 + 1 = s.sp - 1 := by bv_omega
  rw [htop, hslot] at hpc
  rw [htop, BitVec.sub_add_cancel] at hsp
  rw [htop, hsaved] at hflags
  obtain ⟨hcarry, hzero, hcomparison⟩ := flags_eq_of_packedFlags hflags
  exact ⟨hpc ▸ hreturn, hsp, hcarry, hzero, hcomparison, fun r => (hreg' r).trans (hreg r), hpriv'.trans hpriv,
    hreti'.trans hreti, fun a h1 h2 => (hmem' a).trans (hmem a h1 h2)⟩

end Sys2Proof.Machine
end

section
/-! The obligations on class 14 (48_syscall.md). The trap and its return are put together from the operations of the stack
and the memory interface, so their frames are built up operation by operation. The pair (R242) follows from the two rules,
whatever handler runs between them. -/

namespace Sys2Proof.Machine

open Sys2Proof.Claims

/-! ### What the operations of the trap leave -/

section
variable {k : Touched} {s t : State}

/-- Writing `PRIV` widens a frame by `PRIV`. -/
theorem Frame.setPriv (h : Frame k s t) (b : Bool) : Frame { k with priv := true } s (setPriv b t) := by
  obtain ⟨hreg, hpc, hsp, hcarry, hzero, hcomparison, -, hrest⟩ := h
  exact ⟨hreg, hpc, hsp, hcarry, hzero, hcomparison, nofun, hrest⟩

/-- Writing `reti` widens a frame by `reti`. -/
theorem Frame.setReti (h : Frame k s t) (v : Word) : Frame { k with reti := true } s (setReti v t) := by
  obtain ⟨hreg, hpc, hsp, hcarry, hzero, hcomparison, hpriv, -, hrest⟩ := h
  exact ⟨hreg, hpc, hsp, hcarry, hzero, hcomparison, hpriv, nofun, hrest⟩

/-- A read widens a frame by the last access. -/
theorem Frame.memRead (h : Frame k s t) (a : Word) : Frame { k with lastAccess := true } s (memRead a t).2 := by
  obtain ⟨hreg, hpc, hsp, hcarry, hzero, hcomparison, hpriv, hreti, hmem, -, hrest⟩ := h
  exact ⟨hreg, hpc, hsp, hcarry, hzero, hcomparison, hpriv, hreti, hmem, nofun, hrest⟩

/-- A write widens a frame by the word at its address and the last access. -/
theorem Frame.memWrite (h : Frame k s t) (a v : Word) :
    Frame { k with stored := k.stored ++ [maskAddr a], lastAccess := true } s (memWrite a v t) := by
  obtain ⟨hreg, hpc, hsp, hcarry, hzero, hcomparison, hpriv, hreti, hmem, -, hrest⟩ := h
  refine ⟨hreg, hpc, hsp, hcarry, hzero, hcomparison, hpriv, hreti, fun b hb => ?_, nofun, hrest⟩
  obtain ⟨hkept, hne⟩ := not_or.1 (mt List.mem_append.2 hb)
  rw [(memWrite_frame a v t).peek_eq hne, hmem b hkept]

end

/-- The state in which the trap reads the vector: `reti` saved, the flags word pushed, `PRIV` set (R240). -/
def trapSaved (s : State) : State := setPriv true (pushWord (flagsWord s) (setReti s.pc s))

theorem trapSaved_frame (s : State) :
    Frame { sp := true, priv := true, reti := true, stored := [maskAddr (s.sp - 1)], lastAccess := true } s
      (trapSaved s) :=
  (((Frame.refl s).setReti s.pc).pushWord (flagsWord s)).setPriv true

theorem enterSyscall_eq (arg : Imm) (s : State) :
    enterSyscall arg s =
      memWrite Config.argAddr (arg.setWidth 32)
        (setPc (memRead Config.vectorAddr (trapSaved s)).1 (memRead Config.vectorAddr (trapSaved s)).2) := rfl

/-- The trap changes `pc`, `sp`, `PRIV`, `reti`, the pushed word, the argument cell and the last access (R240). -/
theorem enterSyscall_frame (arg : Imm) (s : State) :
    Frame { pc := true, sp := true, priv := true, reti := true, stored := [maskAddr (s.sp - 1), 0x41],
            lastAccess := true } s (enterSyscall arg s) := by
  rw [enterSyscall_eq, ← maskAddr_argAddr]
  exact (((trapSaved_frame s).memRead Config.vectorAddr).setPc _).memWrite Config.argAddr _

/-- The return changes `pc`, `sp`, the flags, `PRIV` and the last access (R241). -/
theorem leaveSyscall_frame (s : State) :
    Frame { pc := true, sp := true, carry := true, zero := true, comparison := true, priv := true,
            lastAccess := true } s (leaveSyscall s) :=
  (((popWord_frame s).unpackFlags _).setPc _).setPriv false

theorem enterSyscall_pc_eq_vectorWord (arg : Imm) (s : State) : (enterSyscall arg s).pc = vectorWord s := by
  rw [enterSyscall_pc, maskAddr_vectorAddr, flagsWord_eq_packedFlags]
  rfl

theorem peek_enterSyscall_argument (arg : Imm) (s : State) : peek (enterSyscall arg s) 0x41 = arg.setWidth 32 := by
  rw [peek_enterSyscall, if_pos maskAddr_argAddr]

/-- The pushed word stays where the argument does not replace it. -/
theorem peek_enterSyscall_pushed (arg : Imm) {s : State} (h : maskAddr (s.sp - 1) ≠ 0x41) :
    peek (enterSyscall arg s) (maskAddr (s.sp - 1)) = packedFlags s := by
  rw [peek_enterSyscall, maskAddr_argAddr, if_neg h.symm, if_pos rfl, flagsWord_eq_packedFlags]

/-! ### The meanings -/

theorem exec_syscall (imm24 : Imm) (s : State) : exec (.syscall imm24) s = .next (enterSyscall imm24 s) := rfl

theorem exec_reti (s : State) : exec .reti s = .next (leaveSyscall s) := rfl

/-- Settles O54: the vector is read after the push and the argument is written last. -/
theorem syscallResult : Obligations.SyscallResult := by
  refine ⟨fun _ ⟨hopc, hs⟩ => DecodesTo.decode_eq (i := .syscall _) ⟨hopc, sOf_of_sBit_false hs, rfl⟩,
    fun s imm24 => ?_⟩
  obtain ⟨hreti, hsp, hpriv⟩ := enterSyscall_saves imm24 s
  exact ⟨_, exec_syscall imm24 s, hreti, hsp, hpriv, enterSyscall_pc_eq_vectorWord imm24 s,
    peek_enterSyscall_argument imm24 s, peek_enterSyscall_pushed imm24, memWrite_lastAccess _ _ _,
    enterSyscall_frame imm24 s⟩

/-- Settles O55: RETI is `leaveSyscall`, which does not test `PRIV`. -/
theorem retiResult : Obligations.RetiResult :=
  ⟨fun _ ⟨hopc, hs⟩ => DecodesTo.decode_eq (i := .reti) ⟨hopc, sOf_of_sBit_true hs⟩, fun s =>
    ⟨_, exec_reti s, rfl, rfl, rfl, ⟨rfl, rfl, rfl⟩, rfl, leaveSyscall_frame s⟩⟩

/-! ### A system call and its return (R242) -/

section
variable {s t : State}

/-- The step of a SYSCALL: the fetch advanced `pc` and changed no flag. -/
theorem step_syscall (h : step s = .next t) (hw : IsSelect (wordAt s) 14 false) :
    t.sp = s.sp - 1 ∧ t.reti = s.pc + 1 ∧ peek t 0x41 = (immBits (wordAt s)).setWidth 32 ∧
      (maskAddr (s.sp - 1) ≠ 0x41 → peek t (maskAddr (s.sp - 1)) = packedFlags s) := by
  obtain ⟨v, hv, hreti, hsp, -, -, hargument, hpushed, -⟩ := syscallResult.2 (afterFetch s) (immBits (wordAt s))
  obtain rfl := step_eq_account h (syscallResult.1 _ hw) hv
  exact ⟨hsp, hreti, hargument, hpushed⟩

/-- The step of a RETI. -/
theorem step_reti (h : step s = .next t) (hw : IsSelect (wordAt s) 14 true) :
    t.pc = s.reti ∧ t.sp = s.sp + 1 ∧ t.priv = false ∧ t.reti = s.reti ∧ FlagsFrom (peek s (maskAddr s.sp)) t := by
  obtain ⟨v, hv, hpc, hsp, hpriv, hflags, -, hframe⟩ := retiResult.2 (afterFetch s)
  obtain ⟨-, -, -, -, -, -, -, hreti, -⟩ := hframe
  obtain rfl := step_eq_account h (retiResult.1 _ hw) hv
  exact ⟨hpc, hsp, hpriv, hreti rfl, hflags⟩

end

/-- Settles O56: RETI unpacks the word SYSCALL left at its `sp`, the flags word or the argument. -/
theorem syscallThenReti : Obligations.SyscallThenReti := by
  intro s t h u hsyscall hsyscallWord hkeptSp hkeptReti hkeptWord hretiWord hreti
  obtain ⟨htop, hsaved, hargument, hpushed⟩ := step_syscall hsyscall hsyscallWord
  obtain ⟨hpc, hsp, hpriv, hkept, hflags⟩ := step_reti hreti hretiWord
  have hresume : h.reti = s.pc + 1 := hkeptReti.trans hsaved
  rw [hkeptSp, htop, BitVec.sub_add_cancel] at hsp
  rw [hkeptSp, hkeptWord, htop] at hflags
  refine ⟨hpc.trans hresume, hsp, hpriv, hkept.trans hresume, hargument, fun hapart => ?flags, fun hcell => ?corner⟩
  case flags => exact flags_eq_of_packedFlags (hpushed hapart ▸ hflags)
  case corner => exact hargument ▸ hcell ▸ hflags

end Sys2Proof.Machine
end

section
/-! The obligations on the exceptions and the end of a run (60_exceptions.md). A step completes or is `PcOutOfBounds`, and
nothing else; so a bounded search either ends at its first step or goes on from the state that step left, and the runs
that end within a bound obey the same recurrence. -/

namespace Sys2Proof.Machine

open Sys2Proof.Claims

/-! ### The outcomes of a step (R250) -/

/-- A step completes or its `pc` is out of bounds. -/
theorem step_next_or_outOfBounds (s : State) : (∃ t, step s = .next t) ∨ step s = .fault .pcOutOfBounds := by
  rcases Nat.lt_or_ge s.pc.toNat (2 ^ 24) with hpc | hpc
  · exact .inl (stepInMemoryCompletes s hpc)
  · exact .inr (step_of_beyond_memory hpc)

/-- Settles O18: neither outcome of a step is an invalid opcode or a refusal. -/
theorem noInvalidOpcode : Obligations.NoInvalidOpcode := by
  intro s
  obtain ⟨t, h⟩ | h := step_next_or_outOfBounds s
  · rw [h]
    exact ⟨nofun, nofun⟩
  · rw [h]
    exact ⟨nofun, nofun⟩

/-! ### Where a pc beyond memory comes from (R251) -/

/-- Outside RET and class 14 the next pc is the advanced pc or a 24-bit target (R112). -/
theorem nextPc_eq_advanced_or_lt {w : Word} (s : State) (hret : ¬ IsSelect w 13 true) (hopc : opcBits w ≠ 14) :
    nextPc s w = s.pc + 1 ∨ (nextPc s w).toNat < 2 ^ 24 := by
  have himm : ((immBits w).setWidth 32).toNat < 2 ^ 24 := by
    rw [BitVec.toNat_setWidth_of_le (by decide)]
    exact (immBits w).isLt
  have hreg : (getReg s (sr2Bits w) &&& 0xFFFFFF).toNat < 2 ^ 24 :=
    (and_addrMask_toNat _).trans_lt (Nat.mod_lt _ (by decide))
  unfold nextPc
  split
  case h_1 =>
    by_cases hcond : condOf (jcBits w) s = true
    · rw [if_pos hcond]
      right
      split
      · exact hreg
      · exact himm
    · exact .inl (if_neg hcond)
  case h_2 h13 =>
    have hcall : sBit w = false := by
      by_contra hs
      exact hret ⟨BitVec.eq_of_toNat_eq h13, by simpa using hs⟩
    rw [if_neg (Bool.eq_false_iff.1 hcall)]
    exact .inr himm
  case h_3 h14 => exact absurd (BitVec.eq_of_toNat_eq h14) hopc
  case h_4 => exact .inl rfl

/-- Settles O22: any other step leaves the advanced pc, which is past memory only from the last word. -/
theorem sourcesOfOutOfBounds : Obligations.SourcesOfOutOfBounds := by
  intro s t h hbeyond
  by_cases hret : IsSelect (wordAt s) 13 true
  · exact .inl hret
  by_cases hopc : opcBits (wordAt s) = 14
  · exact .inr (.inl hopc)
  obtain ⟨hpc, -⟩ := step_executes h
  unfold Config.memWords at hpc
  rw [nextPcSelection s t h] at hbeyond ⊢
  obtain hadvanced | hlt := nextPc_eq_advanced_or_lt s hret hopc
  · rw [hadvanced] at hbeyond ⊢
    exact .inr (.inr (by bv_omega))
  · exact absurd hbeyond (Nat.not_le_of_lt hlt)

/-! ### The end of a run (R276) -/

/-- The step from `u` ends a run with status `x` and leaves `t`: a HALT, or a `PcOutOfBounds` that leaves `u` itself. -/
def EndsRun (u : State) (x : Status) (t : State) : Prop :=
  (x = .halt ∧ step u = .next t ∧ t.status = .halt) ∨ (x = .pcOutOfBounds ∧ t = u ∧ step u = .fault .pcOutOfBounds)

/-- One of the first `k` steps from `s` ends the run. -/
def EndsWithin (k : Nat) (s : State) (x : Status) (t : State) : Prop :=
  ∃ n u, n < k ∧ GoesOn n s u ∧ EndsRun u x t

section
variable {k : Nat} {s t u : State} {x : Status}

theorem endsRun_of_next (h : step s = .next u) : EndsRun s x t ↔ x = .halt ∧ t = u ∧ u.status = .halt := by
  simp only [EndsRun, h, Host.Outcome.next.injEq, reduceCtorEq, and_false, or_false]
  constructor <;> rintro ⟨hx, rfl, hhalt⟩ <;> exact ⟨hx, rfl, hhalt⟩

theorem endsRun_of_outOfBounds (h : step s = .fault .pcOutOfBounds) :
    EndsRun s x t ↔ x = .pcOutOfBounds ∧ t = s := by
  simp [EndsRun, h]

theorem runToEnd_succ_of_next (h : step s = .next u) :
    runToEnd (k + 1) s = if u.status = .halt then some (.halt, u) else runToEnd k u := by
  simp [runToEnd, h]

theorem runToEnd_succ_of_outOfBounds (h : step s = .fault .pcOutOfBounds) :
    runToEnd (k + 1) s = some (.pcOutOfBounds, s) := by
  simp [runToEnd, h]

/-- The search ends at its first step, or at the end it finds from the state that step left. -/
theorem runToEnd_succ_eq_some_iff :
    runToEnd (k + 1) s = some (x, t) ↔
      EndsRun s x t ∨ ∃ u, step s = .next u ∧ u.status ≠ .halt ∧ runToEnd k u = some (x, t) := by
  obtain ⟨u, h⟩ | h := step_next_or_outOfBounds s
  · rw [runToEnd_succ_of_next h, endsRun_of_next h]
    by_cases hhalt : u.status = .halt
    · simp [h, hhalt, eq_comm]
    · simp [h, hhalt]
  · rw [runToEnd_succ_of_outOfBounds h, endsRun_of_outOfBounds h]
    simp [h, eq_comm]

/-- A run ends within one more step if it ends at once, or goes on and ends within the bound from there. -/
theorem endsWithin_succ_iff :
    EndsWithin (k + 1) s x t ↔ EndsRun s x t ∨ ∃ u, step s = .next u ∧ u.status ≠ .halt ∧ EndsWithin k u x t := by
  constructor
  · rintro ⟨n, v, hn, hgoes, hend⟩
    cases n with
    | zero =>
      obtain rfl : v = s := hgoes
      exact .inl hend
    | succ n =>
      obtain ⟨u, hu, hstatus, hgoes⟩ := hgoes
      exact .inr ⟨u, hu, hstatus, n, v, Nat.lt_of_succ_lt_succ hn, hgoes, hend⟩
  · rintro (hend | ⟨u, hu, hstatus, n, v, hn, hgoes, hend⟩)
    · exact ⟨0, s, Nat.succ_pos k, rfl, hend⟩
    · exact ⟨n + 1, v, Nat.succ_lt_succ hn, ⟨u, hu, hstatus, hgoes⟩, hend⟩

theorem EndsWithin.mono {j : Nat} (h : EndsWithin k s x t) (hle : k ≤ j) : EndsWithin j s x t := by
  obtain ⟨n, u, hn, hrest⟩ := h
  exact ⟨n, u, hn.trans_le hle, hrest⟩

end

/-- The bounded search finds exactly the ends within its bound. -/
theorem runToEnd_eq_some_iff {x : Status} {t : State} (k : Nat) (s : State) :
    runToEnd k s = some (x, t) ↔ EndsWithin k s x t := by
  induction k generalizing s with
  | zero => simp [runToEnd, EndsWithin]
  | succ k ih => simp only [runToEnd_succ_eq_some_iff, endsWithin_succ_iff, ih]

/-- Settles O60: by induction on the bound, and an end within a bound is one within any larger bound. -/
theorem endOfRun : Obligations.EndOfRun := fun k s _ _ =>
  ⟨runToEnd_eq_some_iff k s, fun j h =>
    (runToEnd_eq_some_iff (k + j) s).2 (((runToEnd_eq_some_iff k s).1 h).mono (Nat.le_add_right k j))⟩

end Sys2Proof.Machine
end

section
/-! The obligations on construction, reset and restart (70_reset_and_hazards.md). Each is one record, so its fields are read
off it; the image is read back from memory by `Memory.lookup_ofImage`. -/

namespace Sys2Proof.Machine

/-! ### Cleared registers -/

theorem getReg_of_regs_cleared {s : State} (h : s.regs = Vector.replicate Config.nregs 0) (r : Reg) : getReg s r = 0 := by
  simp [getReg, h]

/-! ### Construction (R280) -/

theorem peek_construct (image : List Word) (epoch : Nat) (a : Addr) :
    peek (construct image epoch) a = image.getD a.toNat (Config.filler epoch a) := by
  have hlisted : Memory.lookup (construct image epoch).mem a.toNat = image[a.toNat]? := by
    rw [construct, Memory.lookup_ofImage, if_pos (Nat.zero_le _), Nat.sub_zero]
  rw [peek, hlisted, List.getD_eq_getElem?_getD]
  rfl

theorem hostOp_construct_of_fits {image : List Word} (logging : Bool) (speed : Nat) (s : State)
    (h : image.length < Config.memWords) :
    hostOp (.construct image logging speed) s = .next (construct image (s.epoch + 1)) :=
  if_pos (decide_eq_true h)

/-- Settles O58: the listed words are the image's, so an address past it reads as the filler. -/
theorem constructionState : Obligations.ConstructionState := fun s image logging speed h =>
  ⟨_, hostOp_construct_of_fits logging speed s h, peek_construct image _, getReg_of_regs_cleared rfl, rfl, rfl, rfl, rfl,
    rfl, rfl, rfl, rfl, rfl, rfl⟩

/-! ### Reset (R282, R283) -/

/-- Settles O57: reset writes the registers, `pc`, `sp` and the flags of its record, and no other field. -/
theorem resetOperation : Obligations.ResetOperation := fun s =>
  ⟨hostReset s, rfl, getReg_of_regs_cleared rfl, rfl, rfl, rfl, rfl, rfl, rfl, rfl, fun _ => peek_congr rfl rfl _, rfl,
    rfl, rfl⟩

/-! ### Restart (R284) -/

theorem Executes.epoch {w : Word} {s t : State} (h : Executes w s t) : t.epoch = s.epoch := by
  cases h <;> rfl

theorem step_epoch {s t : State} (h : step s = .next t) : t.epoch = s.epoch := by
  obtain ⟨-, u, hu, rfl⟩ := step_executes h
  exact hu.epoch

/-- Settles O59: a step keeps the image and the filler's number, and reset and construction are one record each. -/
theorem restartOperation : Obligations.RestartOperation :=
  ⟨fun _ => rfl, fun _ _ h => ⟨step_image h, step_epoch h⟩, fun _ => ⟨rfl, rfl⟩, fun _ _ => ⟨rfl, rfl⟩⟩

end Sys2Proof.Machine
end
